-- ==== Sys2Proof/Word.lean ====
section
/-! DEFINITION. The byte, and the fixed-size bank of like things. Nothing here is a meaning. -/

namespace Sys2Proof

/-- One byte as it stands on a line, in a record or in a key. -/
abbrev Byte := BitVec 8

/-- A bank of `n` like things (slots, ports, profiles): read at an index. -/
abbrev Bank (α : Type) (n : Nat) := Vector α n

/-- The bank `v` with the thing at index `i` replaced. -/
def Bank.put {α : Type} {n : Nat} (v : Bank α n) (i : Fin n) (x : α) : Bank α n :=
  v.set i.val x i.isLt

/-- The thing at index `i`. -/
def Bank.look {α : Type} {n : Nat} (v : Bank α n) (i : Fin n) : α :=
  v[i.val]'i.isLt

/-- The bank with `f` applied to every thing of it. -/
def Bank.mapAll {α β : Type} {n : Nat} (f : α → β) (v : Bank α n) : Bank β n :=
  ⟨⟨v.toArray.toList.map f⟩, by simp⟩

/-- The bank whose every thing is `x`. -/
def Bank.fill {α : Type} (n : Nat) (x : α) : Bank α n := Vector.replicate n x

/-- The things of a bank in index order. -/
def Bank.list {α : Type} {n : Nat} (v : Bank α n) : List α := v.toArray.toList

end Sys2Proof
end

