-- ==== Sys2Proof/Syntax.lean ====
section
/-! DEFINITION. The commands of the part: one constructor per row of the table of operations and events.
A workstation request carries the tag and the parameter bytes of its good frame (R199); a bench-line event
carries the characters the port received (R122, R201); a custodian record carries its fields (R204); an
event of the flash or of power carries what the hardware turned out to do. -/

namespace Sys2Proof

/-- The two custodian lines. -/
inductive Line where
  | a | b
deriving DecidableEq, Repr

/-- Bench ports 0 to 15. -/
abbrev PortNo := Fin 16

/-- Key slots 0 to 31. -/
abbrev SlotNo := Fin 32

/-- How one flash program read back: as written, or as the bytes given. -/
inductive ReadBack where
  | ok
  | fails (left : List Byte)
deriving DecidableEq, Repr

/-- What the programs inside one append did: each opened mark in turn (an absent entry is a good one), the
record's first and second attempt, and whether the full mark verified (R164, R173, R174). -/
structure AppendResult where
  opens : List ReadBack
  first : ReadBack
  second : ReadBack
  fullOk : Bool
deriving DecidableEq, Repr

/-- What an erase left: every byte erased, or a segment header that reads as given (R177). -/
inductive EraseResult where
  | erased
  | notErased (header : List Byte)
deriving DecidableEq, Repr

/-- What a flash operation in progress at a power-on reset left in the flash (R180 to R182). -/
inductive FlashFate where
  /-- nothing of the program reached the flash, or no operation was in progress -/
  | untouched
  /-- the operation had ended well -/
  | complete
  /-- the program of an opened mark was cut off and the header reads as given -/
  | cutOpening (header : List Byte)
  /-- the program or erase was cut off; the place, the settlement part or the header reads as given -/
  | cut (bytes : List Byte)
deriving DecidableEq, Repr

/-- The word groups of a slot record (R6). -/
inductive SlotGroup where
  | state | identity | key | check | range
deriving DecidableEq, Repr

/-- The word groups of a profile (R81). -/
inductive ProfGroup where
  | state | heading | item1 | item2 | item3 | item4
deriving DecidableEq, Repr

/-- The word groups of a recognition entry (R90). -/
inductive EntryGroup where
  | control | contents
deriving DecidableEq, Repr

/-- A place in the protected memory in which wrong bits may arise (section 1.2). -/
inductive MemPlace where
  | slot (i : SlotNo) (g : SlotGroup)
  | profile (i : Fin 16) (g : ProfGroup)
  | entry (i : Fin 32) (g : EntryGroup)
  | marker
  | nextSequence
  | releasedThrough
deriving DecidableEq, Repr

/-- Wrong bits that arose in the protected memory while the part was without power: a word with one wrong
bit, or with two (R5). -/
structure Upset where
  place : MemPlace
  twoBits : Bool
deriving DecidableEq, Repr

/-- What the part finds at a power-on reset: its pins, whether VBAT held the protected memory, what became
of a flash operation in progress, and the wrong bits that arose in the protected memory. -/
structure PowerOn where
  strapHigh : Bool
  tamper : Bool
  pfw : Bool
  batteryHeld : Bool
  flash : FlashFate
  upsets : List Upset
deriving DecidableEq, Repr

/-- The commands, in the table's order. -/
inductive Instr where
  | powerOnReset (found : PowerOn)
  | startingEnds
  | pfwTaken
  | zeroizationBegins
  | zeroizationEnd
  | tamperDeasserted
  | secondsTick
  | linkBadLength (length : BitVec 16)
  | linkByteGap (received : List Byte)
  | linkCrcError (body : List Byte) (crc : BitVec 16)
  | linkResyncQuiet
  | linkOverrunFrame (received : List Byte)
  | unknownRequest (group verb tag : Byte) (params : List Byte)
  | devIdentify (tag : Byte) (params : List Byte)
  | devStatus (tag : Byte) (params : List Byte)
  | devTime (tag : Byte) (params : List Byte)
  | devRestart (tag : Byte) (params : List Byte)
  | partRestart (strapHigh pfw : Bool)
  | evtRead (tag : Byte) (params : List Byte)
  | evtMask (tag : Byte) (params : List Byte)
  | slotList (tag : Byte) (params : List Byte)
  | slotInfo (tag : Byte) (params : List Byte)
  | slotVerify (tag : Byte) (params : List Byte)
  | slotSuspend (tag : Byte) (params : List Byte)
  | slotRange (tag : Byte) (params : List Byte)
  | slotResume (tag : Byte) (params : List Byte)
  | slotErase (tag : Byte) (params : List Byte)
  | custOpen (tag : Byte) (params : List Byte)
  | custCancel (tag : Byte) (params : List Byte)
  | custClose (tag : Byte) (params : List Byte)
  | custStatus (tag : Byte) (params : List Byte)
  | engHold (tag : Byte) (params : List Byte)
  | engResume (tag : Byte) (params : List Byte)
  | engStatus (tag : Byte) (params : List Byte)
  | profWrite (tag : Byte) (params : List Byte)
  | profDelete (tag : Byte) (params : List Byte)
  | profRead (tag : Byte) (params : List Byte)
  | matchRead (tag : Byte) (params : List Byte)
  | matchWrite (tag : Byte) (params : List Byte)
  | matchEnable (tag : Byte) (params : List Byte)
  | matchDisable (tag : Byte) (params : List Byte)
  | ordPlace (tag : Byte) (params : List Byte)
  | ordAmend (tag : Byte) (params : List Byte)
  | ordHold (tag : Byte) (params : List Byte)
  | ordRelease (tag : Byte) (params : List Byte)
  | ordAbort (tag : Byte) (params : List Byte)
  | ordRetire (tag : Byte) (params : List Byte)
  | ordStatus (tag : Byte) (params : List Byte)
  | ordList (tag : Byte) (params : List Byte)
  | portSet (tag : Byte) (params : List Byte)
  | portPause (tag : Byte) (params : List Byte)
  | portResume (tag : Byte) (params : List Byte)
  | portReadmit (tag : Byte) (params : List Byte)
  | portReset (tag : Byte) (params : List Byte)
  | portStatus (tag : Byte) (params : List Byte)
  | jrnStatus (tag : Byte) (params : List Byte)
  | jrnRead (tag : Byte) (params : List Byte)
  | jrnRelease (tag : Byte) (params : List Byte)
  | padPresence (line : Line) (custodian : Byte)
  | padWithdraw (line : Line)
  | padComponent (line : Line) (custodian : Byte) (component stated : List Byte)
  | padBadFrame (line : Line) (body : List Byte) (crc : BitVec 16)
  | padBadLength (line : Line) (length : BitVec 16)
  | padFrameGap (line : Line)
  | padQuiet (line : Line)
  | padFrameUnanswered (line : Line)
  | presenceLifetimeEnd (line : Line)
  | windowExpiry
  | assemblyLimitEnd
  | jobEnd
  | lineActivity (port : PortNo)
  | benchInStep (port : PortNo)
  | benchCheckError (port : PortNo) (chars : List Byte)
  | benchLengthError (port : PortNo) (chars : List Byte)
  | benchCut (port : PortNo) (chars : List Byte)
  | responseTimeout (port : PortNo)
  | listeningPeriodEnd (port : PortNo)
  | cooldownEnd (port : PortNo)
  | readmissionEnd (port : PortNo)
  | hello (port : PortNo) (chars : List Byte)
  | ready (port : PortNo) (chars : List Byte)
  | ack (port : PortNo) (chars : List Byte)
  | nak (port : PortNo) (chars : List Byte)
  | done (port : PortNo) (chars : List Byte)
  | idleTimeExpiry (port : PortNo)
  | waitLimitExpiry (port : PortNo)
  | journalWaitExpiry (port : PortNo)
  | flashProgramEnd (result : AppendResult)
  | settlementProgramEnd (result : ReadBack)
  | eraseEnd (result : EraseResult)
  | counterRebuildEnd
  | linkReplySent
  | linkSkipGap
deriving DecidableEq, Repr

end Sys2Proof
end

