-- ==== Sys2Proof/Decode.lean ====
section
/-! DEFINITION. The commands have no words: no row of the table of operations and events gives any bits, so
no word spells a command. -/

namespace Sys2Proof

/-- The command that a word of `nbits` bits spells by the table: none, since the table gives no row bits. -/
def decodeTableWord (_nbits _w : Nat) : Option Instr := none

end Sys2Proof
end

