-- ==== Sys2Proof/Config.lean ====
section
/-! DEFINITION. What an implementation fixes and the manual does not: two constants of DEV.IDENTIFY, and the sizes of the
word groups of the protected memory whose words the manual does not count (log entry 8). They have no body, so no proof can rest on a value of them. -/

namespace Sys2Proof

/-- The part's revision number, reported by DEV.IDENTIFY (R192). The manual gives no value. -/
opaque Config.revision : BitVec 16

/-- The part's serial number, "8 ASCII characters fixed in the part when it was made" (R192), as eight
bytes. The manual gives no value. -/
opaque Config.partSerial : BitVec 64

/-- How many words a group of a slot record has beyond its first. R6 counts the words of the key group alone, which
`Slot.groupWords` gives. -/
opaque Config.furtherSlotWords : SlotGroup → Nat

/-- How many words a group of a profile has beyond its first (R81 names the groups and counts no words). -/
opaque Config.furtherProfileWords : ProfGroup → Nat

/-- How many words a group of a recognition entry has beyond its first (R90 names the groups and counts no words). -/
opaque Config.furtherEntryWords : EntryGroup → Nat

end Sys2Proof
end

