-- ==== Sys2Proof/Machine/Bytes.lean ====
section
/-! DEFINITION. Byte strings: most-significant-first numbers, exclusive-or, the two frame checks (R198),
the bit and digit order of a bench line (R122). -/

namespace Sys2Proof.Machine

/-- `v` as `n` bytes, most significant first (conventions of 00_scope.md, "Byte order"). A number that
does not fit keeps its low `8 * n` bits. -/
def be : Nat → Nat → List Byte
  | 0, _ => []
  | n + 1, v => BitVec.ofNat 8 (v >>> (8 * n)) :: be n v

/-- The number a byte string stands for, most significant byte first. -/
def ofBE (bs : List Byte) : Nat := bs.foldl (fun acc b => acc * 256 + b.toNat) 0

/-- "Set/clear" and "yes/no" as one byte, 0 or 1 (R200). -/
def boolByte (b : Bool) : Byte := if b then 1 else 0

/-- `bs` cut or filled with `fill` to exactly `n` bytes. -/
def padTo (n : Nat) (fill : Byte) (bs : List Byte) : List Byte :=
  bs.take n ++ List.replicate (n - bs.length) fill

/-- The byte-by-byte exclusive-or of two strings of equal length (chapter 4). -/
def xorBytes (a b : List Byte) : List Byte := List.zipWith (· ^^^ ·) a b

/-- One data bit into the CRC-16 register (R198): the register is shifted one place toward its most
significant end, and exclusive-ored with 0x8005 when the bit noted differs from the data bit. -/
def crcBit (reg : BitVec 16) (bit : Bool) : BitVec 16 :=
  let shifted := reg <<< 1
  if reg.msb != bit then shifted ^^^ 0x8005#16 else shifted

/-- One byte into the CRC-16 register, most significant bit first (R198). -/
def crcByte (reg : BitVec 16) (b : Byte) : BitVec 16 :=
  [7, 6, 5, 4, 3, 2, 1, 0].foldl (fun r i => crcBit r (b.getLsbD i)) reg

/-- The CRC-16 of a run of bytes: the register starts at 0xFFFF and is not inverted (R198). -/
def crc16 (bs : List Byte) : BitVec 16 := bs.foldl crcByte 0xFFFF#16

/-- The CRC-16 as the two bytes sent or stored, most significant first (R198). -/
def crcBytes (bs : List Byte) : List Byte := be 2 (crc16 bs).toNat

/-- The LRC-8 of a run of bytes: the exclusive-or of all of them (R198). -/
def lrc8 (bs : List Byte) : Byte := bs.foldl (· ^^^ ·) 0

/-- The byte with its eight bits in the opposite order. -/
def reverseBits (b : Byte) : Byte :=
  [0, 1, 2, 3, 4, 5, 6, 7].foldl (fun (acc : Byte) i => acc ||| (if b.getLsbD i then 1#8 <<< (7 - i) else 0)) 0

/-- The byte with its upper and lower 4-bit halves exchanged (R122). -/
def swapDigits (b : Byte) : Byte := (b <<< 4) ||| (b >>> 4)

/-- A frame byte as its eight bits go on a bench line (R122). Bit `k` of the result is the `k`-th bit on
the line, so an untouched byte is lowest bit first; the halves are exchanged before. -/
def toLine (swapped msbFirst : Bool) (b : Byte) : Byte :=
  let digits := if swapped then swapDigits b else b
  if msbFirst then reverseBits digits else digits

/-- The frame byte read from eight bits of a bench line: `toLine` in reverse (R122). -/
def fromLine (swapped msbFirst : Bool) (b : Byte) : Byte :=
  let assembled := if msbFirst then reverseBits b else b
  if swapped then swapDigits assembled else assembled

/-- The number of one-bits of a byte. -/
def oneBits (b : Byte) : Nat :=
  ([0, 1, 2, 3, 4, 5, 6, 7].filter (fun i => b.getLsbD i)).length

/-- The parity adjustment of one byte: a byte with an even number of one-bits has its lowest bit inverted
(R68). -/
def oddParity (b : Byte) : Byte := if oneBits b % 2 = 0 then b ^^^ 1 else b

/-- The parity adjustment of a key: every byte in turn (R68). -/
def adjustParity (key : List Byte) : List Byte := key.map oddParity

/-- The ASCII bytes of a string. -/
def ascii (t : String) : List Byte := t.toList.map (fun c => BitVec.ofNat 8 c.toNat)

end Sys2Proof.Machine
end

