-- ==== Sys2Proof/Machine/Catalogue.lean ====
section
/-! DEFINITION. The request catalogue (R199) and the extents of frames on the three lines (R199, R201 to
R204). -/

namespace Sys2Proof.Machine

/-- How many verbs a group code has in the catalogue; 0 for a code that names no group (R199). -/
def verbsOf (group : Byte) : Nat :=
  match group.toNat with
  | 1 => 4
  | 2 => 2
  | 3 => 7
  | 4 => 4
  | 5 => 3
  | 6 => 3
  | 7 => 4
  | 8 => 8
  | 9 => 6
  | 10 => 3
  | _ => 0

/-- The group and verb name a request of the catalogue (R188 step 2). -/
def catalogued (group verb : Byte) : Bool := 1 ≤ verb.toNat && verb.toNat ≤ verbsOf group

/-- A body length a workstation frame may have (R184). -/
def linkLengthOk (n : Nat) : Bool := 4 ≤ n && n ≤ 1024

/-- A body length that does not end a custodian frame at once (R27). -/
def padLengthOk (n : Nat) : Bool := n == 1 || n == 2 || n == 21 || n == 37

/-- The CRC of a frame of the workstation link or of a custodian line: over the two length bytes and the body
(R198). -/
def framedCrc (body : List Byte) : BitVec 16 := crc16 (be 2 body.length ++ body)

/-- The body of a whole frame of a custodian line is a record: its type code is one of the pad's three, its
length is one its row allows, and its custodian number lies in 1 to 99 (R27, R204). -/
def padRecordOk : List Byte → Bool
  | [t] => t == 3
  | [t, c] => t == 1 && 1 ≤ c.toNat && c.toNat ≤ 99
  | t :: c :: rest => t == 2 && (rest.length == 19 || rest.length == 35) && 1 ≤ c.toNat && c.toNat ≤ 99
  | [] => false

end Sys2Proof.Machine
end

