-- ==== Sys2Proof/Machine/State.lean ====
section
/-! DEFINITION. The state of the part, block by block, as plain data, and the state right after reset. -/

namespace Sys2Proof.Machine

/-! ## Reasons to stop -/

/-- The faults. There are none: every command of this part answers a next state. -/
inductive Fault where
deriving DecidableEq, Repr

/-- The refusals. -/
inductive Refusal where
  /-- No meaning has been written for the command of this mnemonic. Raised by `exec` alone; safe. -/
  | notModelled (mnemonic : String)
deriving DecidableEq, Repr

/-! ## Conventions shared by the blocks -/

/-- A time written into a record or a slot: the seconds count and whether it had been set (R191). -/
structure Stamp where
  seconds : Nat
  timeSet : Bool
deriving DecidableEq, Repr

/-- The key kinds (conventions, "Key kinds"). -/
inductive KeyKind where
  | d16 | a16 | a32
deriving DecidableEq, Repr

/-- The slot roles (conventions, "Slot roles"). -/
inductive Role where
  | root | transport | fixed
deriving DecidableEq, Repr

/-- The latent errors and the unreadable mark of one group of protected memory words: how many of its words
have one wrong bit, whether one has two, and whether the group has been marked unreadable (R5, R7). -/
structure GroupMem where
  singles : Nat
  double : Bool
  unreadable : Bool
deriving DecidableEq, Repr

/-- A group freshly written: no error, no mark. -/
def GroupMem.clean : GroupMem := ⟨0, false, false⟩

/-! ## Key Store (chapter 1) -/

/-- The slot states (section 1.1). -/
inductive SlotState where
  | empty | assembling | active | suspended | damaged
deriving DecidableEq, Repr

/-- A custodian whose component went into a key, with the line it came on. -/
structure Contributor where
  custodian : Nat
  line : Line
deriving DecidableEq, Repr

/-- The range record of a ROOT slot (section 1.5). -/
structure RangeRecord where
  keySet : Nat
  first : Nat
  last : Nat
  next : Nat
  warn : Nat
  warned : Bool
deriving DecidableEq, Repr

/-- The five word groups of a slot record (R6). -/
structure SlotMem where
  state : GroupMem
  identity : GroupMem
  key : GroupMem
  check : GroupMem
  range : GroupMem
deriving DecidableEq, Repr

/-- All five groups freshly written. -/
def SlotMem.clean : SlotMem :=
  ⟨GroupMem.clean, GroupMem.clean, GroupMem.clean, GroupMem.clean, GroupMem.clean⟩

/-- A slot record (section 1.1, R1). -/
structure Slot where
  state : SlotState
  holders : Nat
  role : Option Role
  kind : Option KeyKind
  label : Option (List Byte)
  contributors : List Contributor
  activation : Option Stamp
  key : List Byte
  check : Option (List Byte)
  range : Option RangeRecord
  mem : SlotMem
deriving DecidableEq, Repr

/-- An EMPTY slot with its words zero (R1). -/
def Slot.blank : Slot :=
  ⟨.empty, 0, none, none, none, [], none, List.replicate 32 0, none, none, SlotMem.clean⟩

/-- The store-valid marker: whether it holds the valid pattern, and its word's errors (R9). -/
structure Marker where
  valid : Bool
  mem : GroupMem
deriving DecidableEq, Repr

/-- A SLOT.VERIFY taken and not yet answered: its slot and the check value stored there (R22). -/
structure VerifyRequest where
  slot : SlotNo
  stored : Option (List Byte)
deriving DecidableEq, Repr

/-- The Key Store. -/
structure KeyStore where
  slots : Bank Slot 32
  corrected : Nat
  marker : Marker
  zeroizing : Bool
  verify : Option VerifyRequest
deriving DecidableEq, Repr

/-! ## Custody Unit (chapter 2) -/

/-- A presence on a custodian line: the custodian and the end of the lifetime on the part's own timing. -/
structure Presence where
  custodian : Nat
  lifetimeEnd : Nat
deriving DecidableEq, Repr

/-- What a custodian line's receiver does: listening for a start byte, or ignoring every byte until quiet after a
bad body length. The quiet brings the answer to a bad frame (`awaitingQuiet`), or none when the frame was one dropped
without an answer (`droppingUntilQuiet`) (R27). -/
inductive PadReceiver where
  | listening | awaitingQuiet | droppingUntilQuiet
deriving DecidableEq, Repr

/-- One custodian line: who is present, its receiver, and the frames sent on it, oldest first. -/
structure CustodianLine where
  presence : Option Presence
  receiver : PadReceiver
  sent : List (List Byte)
deriving DecidableEq, Repr

/-- The open dual-authorization window: opening time (seconds count, and on the part's own timing) and the
custodians of lines A and B (section 2.3). -/
structure Window where
  opening : Stamp
  openedAt : Nat
  custodianA : Nat
  custodianB : Nat
deriving DecidableEq, Repr

/-- An accepted part of an assembly (section 2.4). -/
structure Part where
  custodian : Nat
  line : Line
  component : List Byte
  check : List Byte
deriving DecidableEq, Repr

/-- The phase of an assembly (section 2.4). -/
inductive AssemblyPhase where
  | collecting | combining
deriving DecidableEq, Repr

/-- The assembly record (section 2.4). `limitPassed` says that the limit ended while a completing component
was under check, so that the failure waits for that check (R37). The kept journal place is the record's own
existence. -/
structure Assembly where
  slot : SlotNo
  role : Role
  kind : KeyKind
  label : List Byte
  expected : List Byte
  needed : Nat
  parts : List Part
  refusals : Nat
  phase : AssemblyPhase
  start : Stamp
  limitEnd : Nat
  limitPassed : Bool
deriving DecidableEq, Repr

/-- How an assembly ended (R41, R42). -/
inductive AssemblyEnd where
  | done | check | checkLimit | timeout | cancelled | zeroized
deriving DecidableEq, Repr

/-- The last assembly ending (R41, R42). -/
structure LastAssembly where
  slot : SlotNo
  ending : AssemblyEnd
  seconds : Nat
deriving DecidableEq, Repr

/-- A component received and not yet answered (R38). -/
structure IntakeEntry where
  line : Line
  custodian : Nat
  component : List Byte
  stated : List Byte
deriving DecidableEq, Repr

/-- The Custody Unit. The head of the intake is the component under check when `underCheck` is set. -/
structure CustodyUnit where
  lineA : CustodianLine
  lineB : CustodianLine
  window : Option Window
  reopenBar : Bool
  assembly : Option Assembly
  intake : List IntakeEntry
  underCheck : Bool
  lastEnding : Option LastAssembly
deriving DecidableEq, Repr

/-! ## Cipher Engine and arbiter (chapter 3) -/

/-- The six positions of a key area (section 3.2). -/
inductive Position where
  | wk | ak | k1 | k2 | k3 | k4
deriving DecidableEq, Repr

/-- A key held in a key-area position, with its kind (R50). -/
structure HeldKey where
  kind : KeyKind
  bytes : List Byte
deriving DecidableEq, Repr

/-- A port's key area (R50). -/
structure KeyArea where
  wk : Option HeldKey
  ak : Option HeldKey
  k1 : Option HeldKey
  k2 : Option HeldKey
  k3 : Option HeldKey
  k4 : Option HeldKey
deriving DecidableEq, Repr

/-- An erased key area (R51). -/
def KeyArea.blank : KeyArea := ⟨none, none, none, none, none, none⟩

/-- Where a job's key comes from (chapter 3). -/
inductive KeySource where
  | slot (i : SlotNo)
  | position (k : Position)
  | component
  | combined
deriving DecidableEq, Repr

/-- What a job computes, with the inputs of its kind (R47 to R49): a DERIVE its blocks, output kind and
destination; a CHECK nothing; a WRAP the header and the item's check value. -/
inductive JobWork where
  | derive (blocks : List (List Byte)) (outKind : KeyKind) (dest : Position)
  | check
  | wrap (header check : List Byte)
deriving DecidableEq, Repr

/-- A job (chapter 3). -/
structure Job where
  requester : Fin 17
  source : KeySource
  work : JobWork
deriving DecidableEq, Repr

/-- The mark of a job in flight (section 3.5). -/
inductive JobMark where
  | none | zeroized | discarded
deriving DecidableEq, Repr

/-- The job in flight with the keys gathered at its grant (R55). -/
structure InFlight where
  job : Job
  kind : KeyKind
  key : List Byte
  wk : List Byte
  ak : List Byte
  mark : JobMark
deriving DecidableEq, Repr

/-- The engine and its arbiter. `kept` holds a job its requester submits when its earlier job ends (R52). -/
structure Engine where
  inFlight : Option InFlight
  waiting : Bank (Option Job) 17
  kept : Bank (Option Job) 17
  pointer : Fin 17
  holdHost : Bool
  holdZeroize : Bool
  holdShutdown : Bool
  completed : Nat
deriving DecidableEq, Repr

/-! ## Profile Table and Recognition Table (chapter 5) -/

/-- A profile item's source (section 5.1). -/
inductive ItemSource where
  | derived
  | fixed (slot : SlotNo)
deriving DecidableEq, Repr

/-- One profile item (section 5.1). -/
structure Item where
  source : ItemSource
  kind : KeyKind
  usage : Nat
  index : Nat
deriving DecidableEq, Repr

/-- The contents of a profile (section 5.1). -/
structure ProfileData where
  label : List Byte
  transport : SlotNo
  root : SlotNo
  freshOnly : Bool
  items : List Item
deriving DecidableEq, Repr

/-- The profile states (R80). -/
inductive ProfileState where
  | undefined | defined | damaged
deriving DecidableEq, Repr

/-- The word groups of a profile (R81). -/
structure ProfileMem where
  state : GroupMem
  heading : GroupMem
  item1 : GroupMem
  item2 : GroupMem
  item3 : GroupMem
  item4 : GroupMem
deriving DecidableEq, Repr

/-- All six groups freshly written. -/
def ProfileMem.clean : ProfileMem :=
  ⟨GroupMem.clean, GroupMem.clean, GroupMem.clean, GroupMem.clean, GroupMem.clean, GroupMem.clean⟩

/-- A profile record; the holders count is volatile (R80, R83). -/
structure Profile where
  state : ProfileState
  contents : Option ProfileData
  holders : Nat
  mem : ProfileMem
deriving DecidableEq, Repr

/-- An UNDEFINED profile (R80). -/
def Profile.blank : Profile := ⟨.undefined, none, 0, ProfileMem.clean⟩

/-- A recognition entry (section 5.3) with its two word groups (R90). `targetLost` says that a double error was found
in the control group, which was then rewritten: the target profile cannot be read. -/
structure Entry where
  written : Bool
  enabled : Bool
  damaged : Bool
  target : Nat
  matchValue : BitVec 32
  mask : BitVec 32
  serialStart : List Byte
  targetLost : Bool
  control : GroupMem
  contents : GroupMem
deriving DecidableEq, Repr

/-- A cleared entry (section 5.3). -/
def Entry.blank : Entry := ⟨false, false, false, 0, 0, 0, [], false, GroupMem.clean, GroupMem.clean⟩

/-! ## Order Table (chapter 6) -/

/-- The order states (R100). -/
inductive OrderState where
  | queued | running | held | draining | done | aborted
deriving DecidableEq, Repr

/-- The hold reasons (R101). -/
inductive HoldReason where
  | host | spoilLimit | rangeExhausted | keyUnavailable | profileUnavailable | zeroized
deriving DecidableEq, Repr

/-- An order record (section 6.1). -/
structure Order where
  number : Nat
  profile : Fin 16
  quantity : Nat
  remaining : Nat
  inProgress : Nat
  completed : Nat
  abandoned : Nat
  spoiled : Nat
  spoilLimit : Nat
  state : OrderState
  hold : Option HoldReason
  abortRequested : Bool
  started : Bool
  placement : Nat
  unitHolders : List PortNo
deriving DecidableEq, Repr

/-- The Order Table (chapter 6). -/
structure OrderTable where
  orders : List Order
  placements : Nat
  waiting : Bank (List PortNo) 16
deriving DecidableEq, Repr

/-! ## Bench ports and sessions (chapters 7 and 8) -/

/-- A port's settings (section 7.1). -/
structure Settings where
  enabled : Bool
  rate : Nat
  msbFirst : Bool
  swapped : Bool
  lrc : Bool
  timeout : Nat
  retryLimit : Nat
  waitLimit : Nat
deriving DecidableEq, Repr

/-- The default settings (section 7.1). -/
def Settings.default : Settings := ⟨false, 4, false, false, false, 1000, 3, 60⟩

/-- The port states (section 7.4). -/
inductive PortState where
  | off | dormant | listening | inSession | cooldown | pausing | paused | retired | readmitting
deriving DecidableEq, Repr

/-- The session outcomes, and INTERRUPTED of the start-up scan (R201). -/
inductive Ending where
  | complete | spoiled | withdrawn | refused | unserved | interrupted
deriving DecidableEq, Repr

/-- The reasons of an outcome (R201). -/
inductive Reason where
  | none | check | terminal | line | keyDamaged | reset | zeroized | noJournal | range | keyUnavailable
  | orderAborted | identity | unknown | noProfile | capability | notFresh
deriving DecidableEq, Repr

/-- The bench frame types (R202). -/
inductive FrameType where
  | hello | welcome | ready | wait | refuse | load | ack | nak | commit | done | close
deriving DecidableEq, Repr

/-- The phases of a session (section 8.1). -/
inductive Phase where
  | greeting | assigning | allocating | deriving | loading | committing | settling | closing
deriving DecidableEq, Repr

/-- The terminal's identity as its HELLO gave it (section 8.1, R202). -/
structure Terminal where
  maker : Nat
  model : Nat
  serial : List Byte
  firmware : Nat
  canD16 : Bool
  canA16 : Bool
  canA32 : Bool
  highestIndex : Nat
  fresh : Bool
deriving DecidableEq, Repr

/-- The item states (section 8.1). -/
inductive ItemState where
  | opened | keyed | checked | wrapped | loaded
deriving DecidableEq, Repr

/-- An item entry of a session (section 8.1). -/
structure ItemEntry where
  state : ItemState
  check : Option (List Byte)
  block : Option (List Byte)
deriving DecidableEq, Repr

/-- The frame awaiting its answer: type, sequence number, frame bytes, and the length of the wait, fixed
when the wait began (R125, R126). -/
structure Awaited where
  kind : FrameType
  seq : Nat
  bytes : List Byte
  waitMs : Nat
deriving DecidableEq, Repr

/-- Where an ISSUE record was programmed (section 8.1): sequence number, segment and place. -/
structure RecordRef where
  seq : Nat
  segment : Fin 64
  place : Nat
deriving DecidableEq, Repr

/-- The profile as a session took it at greeting: its number and its contents (R96). -/
structure ProfileCopy where
  number : Fin 16
  contents : ProfileData
deriving DecidableEq, Repr

/-- A session record (section 8.1). Beside the record's own fields: the slots held (R147), whether the
profile is held (R83), the transport slot's kind as its grant reported it (R89), whether the Journal has
reported the ISSUE record as not programmed (R150), the frame awaiting its answer, and the moment on the
part's own timing from which the idle time, the wait limit and the journal wait run. -/
structure Session where
  phase : Phase
  terminal : Terminal
  entry : Option (Fin 32)
  profile : Option ProfileCopy
  order : Option Nat
  unitHeld : Bool
  waiting : Bool
  placeAccepted : Bool
  device : Option Nat
  label : Option (List Byte)
  record : Option RecordRef
  items : List ItemEntry
  seq : Nat
  retry : Nat
  idleFrom : Option Nat
  outcome : Option (Ending × Reason)
  slotHolds : List SlotNo
  profileHeld : Bool
  transportKind : Option KeyKind
  unprogrammed : Bool
  awaited : Option Awaited
  waitFrom : Nat
deriving DecidableEq, Repr

/-- A bench port (chapter 7). `timerFrom` is the moment on the part's own timing from which the port's
listening period or quiet count runs; `sent` holds the characters of the frames sent, oldest first. -/
structure Port where
  settings : Settings
  state : PortState
  inStep : Bool
  score : Nat
  checkErrors : Nat
  cutErrors : Nat
  lengthErrors : Nat
  timeoutErrors : Nat
  session : Option Session
  keyArea : KeyArea
  lastEnd : Option (Ending × Reason)
  timerFrom : Nat
  sent : List (List Byte)
deriving DecidableEq, Repr

/-- A port after reset (R141). -/
def Port.blank : Port :=
  ⟨Settings.default, .off, false, 0, 0, 0, 0, 0, none, KeyArea.blank, none, 0, []⟩

/-! ## Journal (chapter 9) -/

/-- The segment states (R164). -/
inductive SegmentState where
  | erased | active | full | erasing | bad
deriving DecidableEq, Repr

/-- A used place: its 80 bytes, and whether the program of its settlement part failed to verify, in which
case the part reads DAMAGED (R175). -/
structure Place where
  bytes : List Byte
  settleFailed : Bool
deriving DecidableEq, Repr

/-- A segment: its 16 header bytes, its used places in order (the rest are erased), and its state. -/
structure Segment where
  header : List Byte
  places : List Place
  state : SegmentState
deriving DecidableEq, Repr

/-- An erased segment. -/
def Segment.blank : Segment := ⟨List.replicate 16 0xFF, [], .erased⟩

/-- What a session hands over for its ISSUE record's allocation part (R149, R206). -/
structure IssuePart where
  port : PortNo
  order : Nat
  profile : Fin 16
  keySet : Nat
  device : Nat
  maker : Nat
  model : Nat
  firmware : Nat
  serial : List Byte
  stamp : Stamp
deriving DecidableEq, Repr

/-- The content of a settlement (R156, R157, R206). -/
structure Settlement where
  outcome : Ending
  reason : Reason
  stamp : Stamp
  checks : List (List Byte)
deriving DecidableEq, Repr

/-- The types of CUSTODY record (R207). -/
inductive CustodyType where
  | authOpened | assemblyOpened | slotActivated | assemblyFailed | rangeSet | slotSuspended | slotResumed
  | slotErased | profileWritten | profileDeleted | matchWritten | matchEnabled | matchDisabled | zeroized
deriving DecidableEq, Repr

/-- A CUSTODY record as its writer hands it over: type, time, the window's custodian numbers or 0, and the
fields of the type (R207). -/
structure CustodyRecord where
  type : CustodyType
  stamp : Stamp
  custodian1 : Nat
  custodian2 : Nat
  fields : List Byte
deriving DecidableEq, Repr

/-- A settlement of a record already programmed (R171): where the record is, if anywhere; the port of the
session that handed it over, if any; its content; whether that session waits for its program; and the order
whose completed unit is reported when the program ends (R156). -/
structure SettlementEntry where
  record : Option RecordRef
  port : Option PortNo
  content : Settlement
  awaited : Bool
  unitDue : Option Nat
deriving DecidableEq, Repr

/-- An entry of the write queue (R171): an ISSUE append with the settlement attached to it if its session
has ended, a CUSTODY append, or a settlement. -/
inductive QueueEntry where
  | issue (part : IssuePart) (attached : Option Settlement)
  | custody (record : CustodyRecord)
  | settle (entry : SettlementEntry)
deriving DecidableEq, Repr

/-- The program in progress: the head append with the sequence number and bytes it writes, the settlement
attached to the head append, or the head settlement. -/
inductive Program where
  | append (seq : Nat) (bytes : List Byte)
  | attached (record : RecordRef) (bytes : List Byte)
  | settle (bytes : List Byte)
deriving DecidableEq, Repr

/-- What the flash is doing (R172). -/
inductive Flash where
  | idle
  | programming (p : Program)
  | erasing (segment : Fin 64)
deriving DecidableEq, Repr

/-- The journal states (chapter 9). -/
inductive JournalState where
  | working | fault | stopped
deriving DecidableEq, Repr

/-- A counter kept in one protected memory word. -/
structure Counter where
  value : Nat
  mem : GroupMem
deriving DecidableEq, Repr

/-- A journal request that waits for the flash or for a rebuild (R172, R182). -/
inductive JournalRequest where
  | status (level : Nat)
  | read (start max : Nat)
  | release (through : Nat)
deriving DecidableEq, Repr

/-- The Journal (chapter 9). `headFailed` says that the append at the head of the queue has failed its first
attempt and waits for an erased place (R174); `lastOpened` is the segment opened last (R164). -/
structure Journal where
  segments : Bank Segment 64
  nextSeq : Counter
  released : Counter
  promised : Nat
  custodyOut : Nat
  waiters : List PortNo
  startQueue : List QueueEntry
  runQueue : List QueueEntry
  eraseList : List (Fin 64)
  flash : Flash
  state : JournalState
  warnLevel : Nat
  highNoted : Bool
  programFailures : Nat
  eraseFailures : Nat
  lastOpened : Fin 64
  headFailed : Bool
  rebuilding : Bool
  request : Option JournalRequest
deriving DecidableEq, Repr

/-! ## Link Controller (chapter 10) -/

/-- The receiver states (R185, R186). -/
inductive Receiver where
  | hunting | inFrame | skipping | resync
deriving DecidableEq, Repr

/-- A reply owed (R186): the group, verb and tag it echoes, and its body once the owner has answered. -/
structure Owed where
  group : Byte
  verb : Byte
  tag : Byte
  body : Option (List Byte)
deriving DecidableEq, Repr

/-- The modes (R190). -/
inductive Mode where
  | starting | ready | shutdown
deriving DecidableEq, Repr

/-- How far a DEV.RESTART has come (R194): none asked, its reply owed, or its reply sent. -/
inductive Restart where
  | none | replyOwed | due
deriving DecidableEq, Repr

/-- The Link Controller. `pending` and `mask` hold the 83 event flags in the layout of a flag set (R200);
`clock` counts the seconds of the part's own timing since the last reset (R191). -/
structure LinkController where
  rateHigh : Bool
  receiver : Receiver
  buffer : List Byte
  owed : Option Owed
  crcErrors : Nat
  formErrors : Nat
  overruns : Nat
  pending : BitVec 88
  mask : BitVec 88
  seconds : Nat
  timeSet : Bool
  clock : Nat
  mode : Mode
  restart : Restart
deriving DecidableEq, Repr

/-- The input pins the part's behaviour depends on (R23, R184, R190). -/
structure Pins where
  strapHigh : Bool
  tamper : Bool
  pfw : Bool
deriving DecidableEq, Repr

/-- A consequence of a step that one block has told another and that is still to be taken within the step. -/
inductive Task where
  /-- the Order Table has handed this port a unit (R113, R146) -/
  | unitHanded (p : PortNo)
  /-- the Journal has accepted a place for this port (R169) -/
  | placeAccepted (p : PortNo)
  /-- the Journal has entered FAULT while this port waited (R169) -/
  | journalFault (p : PortNo)
  /-- the Order Table sends this port an abort notice (R107, R151) -/
  | abortNotice (p : PortNo)
  /-- the Journal reports that this port's ISSUE record has been programmed (R150) -/
  | issueProgrammed (p : PortNo)
deriving DecidableEq, Repr

/-- The part. `pending` is the queue of the commands that are waiting, first in, first out; `agenda` holds
the consequences still to be taken within the step (empty between steps). -/
structure State where
  pending : List Instr
  agenda : List Task
  pins : Pins
  link : LinkController
  keys : KeyStore
  custody : CustodyUnit
  engine : Engine
  profiles : Bank Profile 16
  entries : Bank Entry 32
  orders : OrderTable
  ports : Bank Port 16
  journal : Journal
deriving DecidableEq, Repr

/-! ## Reset values -/

/-- The Link Controller after power-on reset (R184, R187, R190, R191, R194, R195, R197). -/
def LinkController.atReset (rateHigh : Bool) : LinkController where
  rateHigh := rateHigh
  receiver := .hunting
  buffer := []
  owed := none
  crcErrors := 0
  formErrors := 0
  overruns := 0
  pending := 0
  mask := 0
  seconds := 0
  timeSet := false
  clock := 0
  mode := .starting
  restart := .none

/-- A custodian line after reset (R46). -/
def CustodianLine.atReset : CustodianLine := ⟨none, .listening, []⟩

/-- The Custody Unit after reset (R46). -/
def CustodyUnit.atReset : CustodyUnit where
  lineA := CustodianLine.atReset
  lineB := CustodianLine.atReset
  window := none
  reopenBar := false
  assembly := none
  intake := []
  underCheck := false
  lastEnding := none

/-- The engine after reset (R63). -/
def Engine.atReset : Engine where
  inFlight := none
  waiting := Bank.fill 17 none
  kept := Bank.fill 17 none
  pointer := 0
  holdHost := false
  holdZeroize := false
  holdShutdown := false
  completed := 0

/-- The Order Table after reset (R119). -/
def OrderTable.atReset : OrderTable := ⟨[], 0, Bank.fill 16 []⟩

/-- The Journal after reset with an erased flash (head of chapter 9). -/
def Journal.atReset : Journal where
  segments := Bank.fill 64 Segment.blank
  nextSeq := ⟨1, GroupMem.clean⟩
  released := ⟨0, GroupMem.clean⟩
  promised := 0
  custodyOut := 0
  waiters := []
  startQueue := []
  runQueue := []
  eraseList := []
  flash := .idle
  state := .working
  warnLevel := 512
  highNoted := false
  programFailures := 0
  eraseFailures := 0
  lastOpened := 63
  headFailed := false
  rebuilding := false
  request := none

/-- The Key Store after reset with an empty, valid store (R9, R25). -/
def KeyStore.atReset : KeyStore := ⟨Bank.fill 32 Slot.blank, 0, ⟨true, GroupMem.clean⟩, false, none⟩

/-- The part right after reset: STARTING (R190), every block at its reset values, the protected memory and
the journal flash empty, the pins deasserted and the strap low. -/
def State.reset : State where
  pending := []
  agenda := []
  pins := ⟨false, false, false⟩
  link := LinkController.atReset false
  keys := KeyStore.atReset
  custody := CustodyUnit.atReset
  engine := Engine.atReset
  profiles := Bank.fill 16 Profile.blank
  entries := Bank.fill 32 Entry.blank
  orders := OrderTable.atReset
  ports := Bank.fill 16 Port.blank
  journal := Journal.atReset

end Sys2Proof.Machine
end

