-- ==== Sys2Proof/Machine/Operands.lean ====
section
/-! DEFINITION. The forms of operands and results: the codes of named values, and the encodings of the
fields of requests, replies, frames and records (R199 to R207). -/

namespace Sys2Proof.Machine

/-! ## Reading parameters -/

/-- The `n` bytes of a parameter field from position `off`. -/
def field (params : List Byte) (off n : Nat) : List Byte := (params.drop off).take n

/-- The number in the `n` bytes from position `off` (R200). -/
def number (params : List Byte) (off n : Nat) : Nat := ofBE (field params off n)

/-- A number as an index below `n`, where it is one. -/
def below (n v : Nat) : Option (Fin n) := if h : v < n then some ⟨v, h⟩ else none

/-! ## Codes of named values -/

/-- The kind code (conventions). -/
def KeyKind.code : KeyKind → Nat
  | .d16 => 0x21
  | .a16 => 0x41
  | .a32 => 0x42

/-- The key kind of a kind code. -/
def KeyKind.ofCode (c : Nat) : Option KeyKind :=
  if c = 0x21 then some .d16 else if c = 0x41 then some .a16 else if c = 0x42 then some .a32 else none

/-- The key length in bytes (conventions). -/
def KeyKind.length : KeyKind → Nat
  | .d16 => 16
  | .a16 => 16
  | .a32 => 32

/-- The role code (conventions). -/
def Role.code : Role → Nat
  | .root => 1
  | .transport => 2
  | .fixed => 3

/-- The role of a role code. -/
def Role.ofCode (c : Nat) : Option Role :=
  if c = 1 then some .root else if c = 2 then some .transport else if c = 3 then some .fixed else none

/-- The allowed pairings of role and kind (conventions, R1). -/
def Role.allows : Role → KeyKind → Bool
  | .fixed, _ => true
  | _, .d16 => false
  | _, _ => true

/-- A line's byte: 0x41 for A and 0x42 for B (R200). -/
def lineByte : Line → Byte
  | .a => 0x41
  | .b => 0x42

/-- The other custodian line. -/
def otherLine : Line → Line
  | .a => .b
  | .b => .a

/-- The slot state's code (R200, section 1.1). -/
def SlotState.code : SlotState → Nat
  | .empty => 1
  | .assembling => 2
  | .active => 3
  | .suspended => 4
  | .damaged => 5

/-- The assembly phase's code (R200, section 2.4). -/
def AssemblyPhase.code : AssemblyPhase → Nat
  | .collecting => 1
  | .combining => 2

/-- The code of a failed assembly's reason in its record (R207). -/
def AssemblyEnd.failureCode : AssemblyEnd → Nat
  | .done => 0
  | .check => 1
  | .checkLimit => 2
  | .timeout => 3
  | .cancelled => 4
  | .zeroized => 5

/-- The code of an assembly ending in CUST.STATUS: DONE 1, then the failure reasons in their order, 2 to 6. This is the
model's choice: R200 counts places in a list, and no list names DONE beside the reasons that R207 codes 1 to 5 (log
entry 19). -/
def AssemblyEnd.code (e : AssemblyEnd) : Nat := e.failureCode + 1

/-- The job kind's code in ENG.STATUS, the place in the list of chapter 3: the model's choice, since R200 lists no such
kind of field (R62, log entry 19). -/
def JobWork.code : JobWork → Nat
  | .derive _ _ _ => 1
  | .check => 2
  | .wrap _ _ => 3

/-- The mark's code in ENG.STATUS, with no mark a code of its own and no presence byte: the model's choice, since R200
lists no such kind of field (R62, log entry 19). -/
def JobMark.code : JobMark → Nat
  | .none => 1
  | .zeroized => 2
  | .discarded => 3

/-- The profile state's code (R200, section 5.1). -/
def ProfileState.code : ProfileState → Nat
  | .undefined => 1
  | .defined => 2
  | .damaged => 3

/-- The order state's code (R200, section 6.1). -/
def OrderState.code : OrderState → Nat
  | .queued => 1
  | .running => 2
  | .held => 3
  | .draining => 4
  | .done => 5
  | .aborted => 6

/-- The hold reason's code (R200, section 6.1). -/
def HoldReason.code : HoldReason → Nat
  | .host => 1
  | .spoilLimit => 2
  | .rangeExhausted => 3
  | .keyUnavailable => 4
  | .profileUnavailable => 5
  | .zeroized => 6

/-- The port state's code (R200, chapter 7). -/
def PortState.code : PortState → Nat
  | .off => 1
  | .dormant => 2
  | .listening => 3
  | .inSession => 4
  | .cooldown => 5
  | .pausing => 6
  | .paused => 7
  | .retired => 8
  | .readmitting => 9

/-- The outcome code (R201). -/
def Ending.code : Ending → Nat
  | .complete => 1
  | .spoiled => 2
  | .withdrawn => 3
  | .refused => 4
  | .unserved => 5
  | .interrupted => 6

/-- The reason code (R201). -/
def Reason.code : Reason → Nat
  | .none => 0
  | .check => 1
  | .terminal => 2
  | .line => 3
  | .keyDamaged => 4
  | .reset => 5
  | .zeroized => 6
  | .noJournal => 7
  | .range => 8
  | .keyUnavailable => 9
  | .orderAborted => 10
  | .identity => 11
  | .unknown => 12
  | .noProfile => 13
  | .capability => 14
  | .notFresh => 15

/-- The frame type's code (R202). -/
def FrameType.code : FrameType → Nat
  | .hello => 0x21
  | .welcome => 0x11
  | .ready => 0x22
  | .wait => 0x13
  | .refuse => 0x12
  | .load => 0x14
  | .ack => 0x23
  | .nak => 0x24
  | .commit => 0x15
  | .done => 0x25
  | .close => 0x16

/-- The phase's code, GREETING 1 to CLOSING 8 (R202). -/
def Phase.code : Phase → Nat
  | .greeting => 1
  | .assigning => 2
  | .allocating => 3
  | .deriving => 4
  | .loading => 5
  | .committing => 6
  | .settling => 7
  | .closing => 8

/-- The record type of a CUSTODY record (R207). -/
def CustodyType.code : CustodyType → Nat
  | .authOpened => 1
  | .assemblyOpened => 2
  | .slotActivated => 3
  | .assemblyFailed => 4
  | .rangeSet => 5
  | .slotSuspended => 6
  | .slotResumed => 7
  | .slotErased => 8
  | .profileWritten => 9
  | .profileDeleted => 10
  | .matchWritten => 11
  | .matchEnabled => 12
  | .matchDisabled => 13
  | .zeroized => 14

/-- The journal state's code (R200). -/
def JournalState.code : JournalState → Nat
  | .working => 1
  | .fault => 2
  | .stopped => 3

/-- The flash activity's code (R200, chapter 9). -/
def Flash.code : Flash → Nat
  | .idle => 1
  | .programming _ => 2
  | .erasing _ => 3

/-- The mode's code (R200, chapter 10). -/
def Mode.code : Mode → Nat
  | .starting => 1
  | .ready => 2
  | .shutdown => 3

/-! ## Statuses -/

/-- The statuses of a reply (R189). -/
inductive Status where
  | ok | badRequest | badLength | badValue | notAuthorized | wrongState | tableFull | duplicate | notFound
  | inUse | portBusy | journalFull | tampered | starting | shutdown | nakCrc | nakForm
deriving DecidableEq, Repr

/-- The status code (R199). -/
def Status.code : Status → Nat
  | .ok => 0
  | .badRequest => 1
  | .badLength => 2
  | .badValue => 3
  | .notAuthorized => 4
  | .wrongState => 5
  | .tableFull => 6
  | .duplicate => 7
  | .notFound => 8
  | .inUse => 9
  | .portBusy => 10
  | .journalFull => 11
  | .tampered => 12
  | .starting => 13
  | .shutdown => 14
  | .nakCrc => 15
  | .nakForm => 16

/-! ## Fields of results -/

/-- A field that may be absent: a presence byte, then the field in its full width `w`, 00 when absent
(R200). -/
def present (w : Nat) (o : Option (List Byte)) : List Byte :=
  match o with
  | some bs => 1 :: padTo w 0 bs
  | none => 0 :: List.replicate w 0

/-- A field of a group that may be unreadable: presence byte 2, and 00 in its full width (R200). -/
def readable (unreadable : Bool) (w : Nat) (o : Option (List Byte)) : List Byte :=
  if unreadable then 2 :: List.replicate w 0 else present w o

/-- A list whose length varies: a count byte, then the entries (R200). -/
def counted {α : Type} (f : α → List Byte) (xs : List α) : List Byte :=
  be 1 xs.length ++ xs.flatMap f

/-- A time with its time-set flag. -/
def Stamp.bytes (t : Stamp) : List Byte := be 4 t.seconds ++ [boolByte t.timeSet]

/-- A serial: its length, then 16 bytes filled with 00 (R200). -/
def serialField (serial : List Byte) : List Byte := be 1 serial.length ++ padTo 16 0 serial

/-- A serial prefix: its length, then 8 character positions (R200). The positions beyond its length are 00 in replies
and records: the model's choice, since R200 gives that filling for the serial alone (R95, log entry 19). -/
def serialStartField (chars : List Byte) : List Byte := be 1 chars.length ++ padTo 8 0 chars

/-- A contributor: custodian number and line. -/
def Contributor.bytes (c : Contributor) : List Byte := be 1 c.custodian ++ [lineByte c.line]

/-- The remaining count of a range: last + 1 − next (section 1.5). -/
def RangeRecord.remaining (r : RangeRecord) : Nat := r.last + 1 - r.next

/-- A range record with its remaining count. -/
def RangeRecord.bytes (r : RangeRecord) : List Byte :=
  be 4 r.keySet ++ be 4 r.first ++ be 4 r.last ++ be 4 r.next ++ be 2 r.warn ++ [boolByte r.warned]
    ++ be 4 r.remaining

/-- A profile item as six bytes: source, FIXED slot, kind code, usage code, terminal key index (R207). -/
def Item.bytes (i : Item) : List Byte :=
  (match i.source with
    | .derived => [1, 0]
    | .fixed n => 2 :: be 1 n.val) ++ be 1 i.kind.code ++ be 2 i.usage ++ be 1 i.index

/-- A set of hold causes: HOST in bit 0, ZEROIZE in bit 1, SHUTDOWN in bit 2 (R200). -/
def Engine.holdBytes (e : Engine) : List Byte :=
  be 1 ((if e.holdHost then 1 else 0) + (if e.holdZeroize then 2 else 0) + (if e.holdShutdown then 4 else 0))

/-- An outcome with its reason. -/
def endingBytes (o : Ending × Reason) : List Byte := be 1 o.1.code ++ be 1 o.2.code

/-- An order as ORD.STATUS reports it whole (R109). -/
def Order.bytes (o : Order) : List Byte :=
  be 2 o.number ++ be 1 o.profile.val ++ be 2 o.quantity ++ be 2 o.remaining ++ be 2 o.inProgress
    ++ be 2 o.completed ++ be 2 o.abandoned ++ be 2 o.spoiled ++ be 1 o.spoilLimit ++ be 1 o.state.code
    ++ present 1 (o.hold.map (fun h => be 1 h.code)) ++ [boolByte o.abortRequested, boolByte o.started]
    ++ be 4 o.placement ++ counted (fun p : PortNo => be 1 p.val) o.unitHolders

/-- An order as ORD.LIST reports it (R109). -/
def Order.listBytes (o : Order) : List Byte :=
  be 2 o.number ++ be 1 o.profile.val ++ be 1 o.state.code ++ present 1 (o.hold.map (fun h => be 1 h.code))
    ++ be 2 o.quantity ++ be 2 o.remaining ++ be 2 o.inProgress ++ be 2 o.completed ++ be 2 o.abandoned
    ++ be 2 o.spoiled

/-- The eight settings of a port in the order of PORT.SET (R121). -/
def Settings.bytes (g : Settings) : List Byte :=
  [boolByte g.enabled] ++ be 1 g.rate ++ [boolByte g.msbFirst, boolByte g.swapped, boolByte g.lrc]
    ++ be 2 g.timeout ++ be 1 g.retryLimit ++ be 2 g.waitLimit

end Sys2Proof.Machine
end

