-- ==== Sys2Proof/Machine/Flash.lean ====
section
/-! DEFINITION. The journal flash as bytes: segment headers, places, the two record layouts and how they read
(R164 to R167, R205 to R207). -/

namespace Sys2Proof.Machine

/-- Whether every byte of a run reads erased. -/
def allErased (bs : List Byte) : Bool := bs.all (· == 0xFF)

/-- `bs` with the bytes from position `off` replaced by `new`. -/
def overwrite (bs : List Byte) (off : Nat) (new : List Byte) : List Byte :=
  bs.take off ++ new ++ bs.drop (off + new.length)

/-! ## Segment headers (R205) -/

/-- Places of a segment (section 9.1). -/
def placesPerSegment : Nat := 128

/-- The header of a segment just opened with its first sequence number. -/
def openedHeader (first : Nat) : List Byte :=
  let mark := [0x5A] ++ be 4 first
  mark ++ crcBytes mark ++ List.replicate 9 0xFF

/-- The opened mark is sound: position 0 is 0x5A and the CRC over positions 0 to 4 is correct. -/
def openedSound (header : List Byte) : Bool :=
  header.getD 0 0 == 0x5A && crcBytes (header.take 5) == field header 5 2

/-- The header carries the bad mark. -/
def badMarked (header : List Byte) : Bool := header.getD 8 0xFF == 0

/-- The header carries the full mark. -/
def fullMarked (header : List Byte) : Bool := header.getD 7 0xFF == 0x5A

/-- The header is opened and of a valid form: its opened mark is sound, position 7 is erased or the full mark, and
positions 9 to 15 are erased (R205). A bad mark at position 8 is judged before this. -/
def openedValid (header : List Byte) : Bool :=
  openedSound header && (header.getD 7 0 == 0xFF || fullMarked header) && allErased (header.drop 9)

/-- The first sequence number of an opened mark. -/
def firstMark (header : List Byte) : Nat := number header 1 4

/-- The header with the bad mark programmed. -/
def withBadMark (header : List Byte) : List Byte := overwrite header 8 [0]

/-- The header with the full mark programmed. -/
def withFullMark (header : List Byte) : List Byte := overwrite header 7 [0x5A]

/-! ## Record layouts (R206, R207) -/

/-- The kind byte of an ISSUE record. -/
def kindIssue : Byte := 0x1A

/-- The kind byte of a CUSTODY record. -/
def kindCustody : Byte := 0x2C

/-- The allocation part of an ISSUE record, its settlement part and the rest left erased (R206). -/
def issueBytes (seq : Nat) (r : IssuePart) : List Byte :=
  let body := [kindIssue, 1] ++ be 4 seq ++ be 1 r.port.val ++ be 2 r.order ++ be 1 r.profile.val ++ be 4 r.keySet
    ++ be 4 r.device ++ be 2 r.maker ++ be 2 r.model ++ be 2 r.firmware ++ serialField r.serial ++ r.stamp.bytes
  body ++ crcBytes body ++ List.replicate 32 0xFF

/-- The settlement part of an ISSUE record, 21 bytes (R206). -/
def settlementBytes (t : Settlement) : List Byte :=
  let body := be 1 t.outcome.code ++ be 1 t.reason.code ++ be 4 t.stamp.seconds
    ++ be 1 ((if t.stamp.timeSet then 16 else 0) + t.checks.length) ++ padTo 12 0 t.checks.flatten
  body ++ crcBytes body

/-- A CUSTODY record (R207). -/
def custodyBytes (seq : Nat) (r : CustodyRecord) : List Byte :=
  let body := [kindCustody, 1] ++ be 4 seq ++ be 1 r.type.code ++ r.stamp.bytes ++ be 1 r.custodian1
    ++ be 1 r.custodian2 ++ padTo 64 0 r.fields
  body ++ crcBytes body

/-- A check value with its presence byte as a record writes it (R207). -/
def recordCheck (unreadable : Bool) (check : Option (List Byte)) : List Byte := readable unreadable 3 check

/-! ## How a place reads (R165, R166) -/

/-- The kind byte of a place. -/
def Place.kind (p : Place) : Byte := p.bytes.getD 0 0xFF

/-- The place is erased: its kind byte reads so (R165, R205). -/
def Place.isErased (p : Place) : Bool := p.kind == 0xFF

/-- The place holds a record: its kind byte is ISSUE or CUSTODY. -/
def Place.isRecord (p : Place) : Bool := p.kind == kindIssue || p.kind == kindCustody

/-- The check of an ISSUE record's allocation part, or of a CUSTODY record, passes. -/
def Place.sound (p : Place) : Bool :=
  if p.kind == kindIssue then crcBytes (p.bytes.take 46) == field p.bytes 46 2
  else crcBytes (p.bytes.take 78) == field p.bytes 78 2

/-- The settlement part of a place. -/
def Place.settlePart (p : Place) : List Byte := field p.bytes 48 21

/-- The record is an ISSUE record that stands PENDING. -/
def Place.pending (p : Place) : Bool :=
  p.kind == kindIssue && p.sound && !p.settleFailed && allErased p.settlePart

/-- The settlement part's check passes and its program verified. -/
def Place.settled (p : Place) : Bool :=
  !p.settleFailed && crcBytes (field p.bytes 48 19) == field p.bytes 67 2

/-- The read mark of a record in JRN.READ (R200). -/
def Place.readMark (p : Place) : Byte :=
  if !p.sound then 3
  else if p.kind == kindCustody then 0
  else if p.pending then 1
  else if p.settled then 0
  else 2

/-- The place with its kind byte programmed to void. -/
def Place.voided (p : Place) : Place := { p with bytes := overwrite p.bytes 0 [0] }

/-! ## Segments -/

/-- The segment has an erased place left. -/
def Segment.hasRoom (g : Segment) : Bool := g.places.length < placesPerSegment

/-- The records of a list of places with the place number of each, numbered on from `seq`; void places take no
number (R165, R167). -/
def numberPlaces : Nat → Nat → List Place → List (Nat × Nat × Place)
  | _, _, [] => []
  | i, seq, p :: ps =>
    if p.isRecord then (seq, i, p) :: numberPlaces (i + 1) (seq + 1) ps else numberPlaces (i + 1) seq ps

/-- The records of a segment: sequence number, place number and place, in order. The first record has the
sequence number of the opened mark (R164, R167). -/
def Segment.records (g : Segment) : List (Nat × Nat × Place) := numberPlaces 0 (firstMark g.header) g.places

/-- The records of the segment are held: it is ACTIVE or FULL (R167). -/
def Segment.held (g : Segment) : Bool := g.state == .active || g.state == .full

/-- The segments with their numbers. -/
def Journal.numbered (j : Journal) : List (Fin 64 × Segment) := (List.finRange 64).map (fun i => (i, j.segments.look i))

/-- A held record: its sequence number, its segment, its place number and its place. -/
structure HeldRecord where
  seq : Nat
  segment : Fin 64
  index : Nat
  place : Place
deriving DecidableEq, Repr

/-- Where a held record is. -/
def HeldRecord.ref (r : HeldRecord) : RecordRef := ⟨r.seq, r.segment, r.index⟩

/-- A record put into a list kept in sequence order. -/
def insertRecord (r : HeldRecord) : List HeldRecord → List HeldRecord
  | [] => [r]
  | x :: xs => if r.seq ≤ x.seq then r :: x :: xs else x :: insertRecord r xs

/-- The held records in sequence order (R167). -/
def Journal.heldRecords (j : Journal) : List HeldRecord :=
  let all := j.numbered.flatMap (fun (i, g) =>
    if g.held then g.records.map (fun (q, k, p) => (⟨q, i, k, p⟩ : HeldRecord)) else [])
  all.foldr insertRecord []

/-- The erased places: those of every ERASED segment and the erased places of the ACTIVE one (R165). -/
def Journal.erasedPlaces (j : Journal) : Nat :=
  (j.segments.list.map (fun g =>
    match g.state with
    | .erased => placesPerSegment
    | .active => placesPerSegment - g.places.length
    | _ => 0)).sum

/-- The free count, below 0 included (R168). -/
def Journal.free (j : Journal) : Int := (j.erasedPlaces : Int) - (j.promised : Int)

/-- The free count as a report gives it: 0 for any value below 0 (R168). -/
def Journal.freeReported (j : Journal) : Nat := j.free.toNat

/-- The newest sequence (R167). -/
def Journal.newest (j : Journal) : Nat := j.nextSeq.value - 1

/-- The oldest held sequence, or next sequence when the journal holds no record (R167). -/
def Journal.oldestHeld (j : Journal) : Nat := (j.heldRecords.head?.map (·.seq)).getD j.nextSeq.value

/-- The held records that stand PENDING, in sequence order. -/
def Journal.pendingRecords (j : Journal) : List HeldRecord := j.heldRecords.filter (fun r => r.place.pending)

/-- The oldest PENDING sequence, if a held record is PENDING. -/
def Journal.oldestPending (j : Journal) : Option Nat := j.pendingRecords.head?.map (·.seq)

/-- The ACTIVE segment, if there is one. -/
def Journal.active? (j : Journal) : Option (Fin 64) := (j.numbered.find? (fun x => x.2.state == .active)).map (·.1)

/-- The ERASED segments counting upward from the one opened before, going on from 63 to 0; that one itself
comes last (R164). -/
def Journal.nextErased? (j : Journal) : Option (Fin 64) :=
  ((List.range 64).map (fun k => (⟨(j.lastOpened.val + 1 + k) % 64, Nat.mod_lt _ (by decide)⟩ : Fin 64))).find?
    (fun i => (j.segments.look i).state == .erased)

/-- The segment at `i` changed by `f`. -/
def Journal.updSegment (j : Journal) (i : Fin 64) (f : Segment → Segment) : Journal :=
  { j with segments := j.segments.put i (f (j.segments.look i)) }

/-- How many segments are in a state. -/
def Journal.countState (j : Journal) (t : SegmentState) : Nat := (j.segments.list.filter (fun g => g.state == t)).length

/-! ## The erase list (R177) -/

/-- The order of a segment on the erase list: its oldest record, or its first sequence mark when it holds
none. A segment whose header has no sound mark, its erase having been cut off, stands before every other: the model's
choice, since R177 and R181 give it no place (log entry 18). -/
def Segment.eraseKey (g : Segment) : Nat := if openedSound g.header then firstMark g.header else 0

/-- The FULL segment may be reclaimed: every record it holds is at or below released-through, and it does not
hold the newest record (R177). -/
def Journal.reclaimable (j : Journal) (g : Segment) : Bool :=
  g.state == .full && g.records.all (fun r => r.1 ≤ j.released.value && r.1 != j.newest)

/-- A segment put into the erase list, oldest first (R177). R177 gives two segments with equal keys, one of void places
alone and the next opened with the same first sequence mark, no order. The one judged later stands behind, and of two
judged together the higher numbered: the model's choice (log entry 18). -/
def Journal.insertErase (j : Journal) (i : Fin 64) (list : List (Fin 64)) : List (Fin 64) :=
  let older (x : Fin 64) : Bool := (j.segments.look x).eraseKey ≤ (j.segments.look i).eraseKey
  list.takeWhile older ++ [i] ++ list.dropWhile older

/-- The FULL segments judged for reclaim: those that qualify join the erase list, each at most once
(R177). -/
def Journal.judgeReclaim (j : Journal) : Journal :=
  { j with eraseList := j.numbered.foldl (fun list x =>
      if j.reclaimable x.2 && !list.contains x.1 then j.insertErase x.1 list else list) j.eraseList }

end Sys2Proof.Machine
end

