-- ==== Sys2Proof/Machine/Flags.lean ====
section
/-! DEFINITION. The event flags of the Link Controller, their mask and the ATTN output (R195 to R197, R200). -/

namespace Sys2Proof.Machine

/-- The 19 global event flags, in the order of the table under R195. -/
inductive GlobalFlag where
  | storeLost | tamper | keyDamaged | memoryCorrected | profileDamaged | rangeLow | rangeExhausted
  | authOpen | authClosed | assemblyDone | assemblyFailed | padError | orderDone | orderHeld
  | journalHigh | journalFull | journalFault | journalInterrupted | linkError
deriving DecidableEq, Repr

/-- The four event flags of each port. -/
inductive PortFlag where
  | sessionEnd | warning | retired | readmitted
deriving DecidableEq, Repr

/-- One of the 83 event flags (R195). -/
inductive EventFlag where
  | global (g : GlobalFlag)
  | port (k : PortFlag) (p : PortNo)
deriving DecidableEq, Repr

/-- The place of a global flag in the table under R195, from 0. -/
def GlobalFlag.place : GlobalFlag → Nat
  | .storeLost => 0
  | .tamper => 1
  | .keyDamaged => 2
  | .memoryCorrected => 3
  | .profileDamaged => 4
  | .rangeLow => 5
  | .rangeExhausted => 6
  | .authOpen => 7
  | .authClosed => 8
  | .assemblyDone => 9
  | .assemblyFailed => 10
  | .padError => 11
  | .orderDone => 12
  | .orderHeld => 13
  | .journalHigh => 14
  | .journalFull => 15
  | .journalFault => 16
  | .journalInterrupted => 17
  | .linkError => 18

/-- The place of a port flag in a port's half byte of a flag set, from the most significant (R200). -/
def PortFlag.place : PortFlag → Nat
  | .sessionEnd => 0
  | .warning => 1
  | .retired => 2
  | .readmitted => 3

/-- The bit of a flag in an 11-byte flag set read as one number: the global flags from the most significant
bit, five zero bits, then four bits a port from port 0 (R200). -/
def EventFlag.bit : EventFlag → Nat
  | .global g => 87 - g.place
  | .port k p => 63 - (4 * p.val + k.place)

/-- The one-bit flag set of a flag. -/
def EventFlag.single (f : EventFlag) : BitVec 88 := 1#88 <<< f.bit

/-- The five bits of a flag set that name no flag (R200). -/
def unusedFlagBits : BitVec 88 := 0x1F#88 <<< 64

/-- Raising a flag: it becomes pending (R195). -/
def LinkController.raise (l : LinkController) (f : EventFlag) : LinkController :=
  { l with pending := l.pending ||| f.single }

/-- Raising a flag at the Link Controller (R195). -/
def State.raise (s : State) (f : EventFlag) : State := { s with link := s.link.raise f }

/-- Raising a global flag. -/
def State.raiseGlobal (s : State) (g : GlobalFlag) : State := s.raise (.global g)

/-- Raising a flag of a port. -/
def State.raisePort (s : State) (k : PortFlag) (p : PortNo) : State := s.raise (.port k p)

/-- Raising a global flag when a condition holds. -/
def State.raiseWhen (s : State) (c : Bool) (g : GlobalFlag) : State := if c then s.raiseGlobal g else s

/-- Whether a flag is pending. -/
def State.flagPending (s : State) (f : EventFlag) : Bool := s.link.pending.getLsbD f.bit

/-- The flags pending and unmasked, as a flag set. -/
def LinkController.attention (l : LinkController) : BitVec 88 := l.pending &&& ~~~ l.mask

/-- How many bits of a flag set are set. -/
def countFlags (v : BitVec 88) : Nat := ((List.range 88).filter (fun i => v.getLsbD i)).length

/-- The attention count: the flags pending and unmasked (R189). -/
def LinkController.attentionCount (l : LinkController) : Nat := countFlags l.attention

/-- The attention port: the lowest port with one of its four flags pending and unmasked, or 0xFF (R189). -/
def LinkController.attentionPort (l : LinkController) : Nat :=
  ((List.range 16).find? (fun p => ((List.range 4).any (fun k => l.attention.getLsbD (63 - (4 * p + k)))))).getD 0xFF

/-- The ATTN output: asserted while a flag is pending and unmasked (R195). -/
def State.attn (s : State) : Bool := s.link.attention != 0

end Sys2Proof.Machine
end

