-- ==== Sys2Proof/Machine/Ops.lean ====
section
/-! DEFINITION. The named operations over the parts of the state: reading and replacing a slot, a profile, an
entry, an order, a port, a session, a custodian line, and the part's time. -/

namespace Sys2Proof.Machine

/-! ## Time -/

/-- The seconds count and time-set flag as they stand (R191). -/
def State.stamp (s : State) : Stamp := ⟨s.link.seconds, s.link.timeSet⟩

/-- The part's own timing, in seconds since the last reset (R191). -/
def State.now (s : State) : Nat := s.link.clock

/-- A count of the part's own timing began at moment `start`, in the second in progress. Where an event restarts a count
and may fall together with its end, the end that comes in that second is the end of the count before, and finds the count
that the event began: it has no effect (R31, R131, R135; log entry 7). -/
def State.begunNow (s : State) (start : Nat) : Bool := start == s.now

/-- The part is in SHUTDOWN (R190). -/
def State.isShutdown (s : State) : Bool := s.link.mode == .shutdown

/-- A count that stops at its maximum (conventions, "Counters"). -/
def saturate (limit n : Nat) : Nat := min limit n

/-! ## Slots -/

/-- The slot at `i`. -/
def State.slot (s : State) (i : SlotNo) : Slot := s.keys.slots.look i

/-- The slot at `i` replaced. -/
def State.setSlot (s : State) (i : SlotNo) (x : Slot) : State :=
  { s with keys := { s.keys with slots := s.keys.slots.put i x } }

/-- The slot at `i` changed by `f`. -/
def State.updSlot (s : State) (i : SlotNo) (f : Slot → Slot) : State := s.setSlot i (f (s.slot i))

/-! ## Profiles and entries -/

/-- The profile at `i`. -/
def State.profile (s : State) (i : Fin 16) : Profile := s.profiles.look i

/-- The profile at `i` replaced. -/
def State.setProfile (s : State) (i : Fin 16) (x : Profile) : State :=
  { s with profiles := s.profiles.put i x }

/-- The profile at `i` changed by `f`. -/
def State.updProfile (s : State) (i : Fin 16) (f : Profile → Profile) : State :=
  s.setProfile i (f (s.profile i))

/-- The recognition entry at `i`. -/
def State.entry (s : State) (i : Fin 32) : Entry := s.entries.look i

/-- The recognition entry at `i` replaced. -/
def State.setEntry (s : State) (i : Fin 32) (x : Entry) : State :=
  { s with entries := s.entries.put i x }

/-! ## Orders -/

/-- The order of a number, if the table has one. -/
def State.order? (s : State) (n : Nat) : Option Order := s.orders.orders.find? (fun o => o.number == n)

/-- The order of a number changed by `f`. -/
def State.updOrder (s : State) (n : Nat) (f : Order → Order) : State :=
  { s with orders := { s.orders with
      orders := s.orders.orders.map (fun o => if o.number = n then f o else o) } }

/-- The waiting list of a profile. -/
def State.waitingList (s : State) (p : Fin 16) : List PortNo := s.orders.waiting.look p

/-- The waiting list of a profile replaced. -/
def State.setWaiting (s : State) (p : Fin 16) (ports : List PortNo) : State :=
  { s with orders := { s.orders with waiting := s.orders.waiting.put p ports } }

/-! ## Ports and sessions -/

/-- The port at `p`. -/
def State.port (s : State) (p : PortNo) : Port := s.ports.look p

/-- The port at `p` replaced. -/
def State.setPort (s : State) (p : PortNo) (x : Port) : State := { s with ports := s.ports.put p x }

/-- The port at `p` changed by `f`. -/
def State.updPort (s : State) (p : PortNo) (f : Port → Port) : State := s.setPort p (f (s.port p))

/-- The session on port `p`, if one is present. -/
def State.session? (s : State) (p : PortNo) : Option Session := (s.port p).session

/-- The session on port `p`, if one is present, changed by `f`. -/
def State.updSession (s : State) (p : PortNo) (f : Session → Session) : State :=
  s.updPort p (fun q => { q with session := q.session.map f })

/-- The port is DEGRADED: its score is 128 or more (R128). -/
def Port.degraded (q : Port) : Bool := 128 ≤ q.score

/-- The response timeout in force (R125, R128). -/
def Port.timeoutInForce (q : Port) : Nat :=
  if q.degraded then 2 * q.settings.timeout else q.settings.timeout

/-- The port decodes its line (R123). -/
def Port.decodes (q : Port) : Bool :=
  q.state == .listening || q.state == .inSession || q.state == .pausing

/-- The lamp patterns (R140). -/
inductive Lamp where
  | off | slow | fast | steady | double | blip
deriving DecidableEq, Repr

/-- The lamp pattern's code (R200, chapter 7). -/
def Lamp.code : Lamp → Nat
  | .off => 1
  | .slow => 2
  | .fast => 3
  | .steady => 4
  | .double => 5
  | .blip => 6

/-- The eight steps of a pattern, lit or dark (R140). -/
def Lamp.steps : Lamp → List Bool
  | .off => [false, false, false, false, false, false, false, false]
  | .slow => [true, true, true, true, false, false, false, false]
  | .fast => [true, false, true, false, true, false, true, false]
  | .steady => [true, true, true, true, true, true, true, true]
  | .double => [true, false, true, false, false, false, false, false]
  | .blip => [true, false, false, false, false, false, false, false]

/-- The lamp pattern of a port (R140). -/
def Port.lamp (q : Port) : Lamp :=
  match q.state with
  | .off => .off
  | .dormant => .off
  | .paused => .off
  | .listening => .slow
  | .inSession => if (q.session.bind (·.device)).isSome then .fast else .slow
  | .pausing => if (q.session.bind (·.device)).isSome then .fast else .slow
  | .cooldown => if q.lastEnd.map (·.1) = some .complete then .steady else .double
  | .retired => .blip
  | .readmitting => .blip

/-- The lamp output of a port: every lamp is dark once a power-fail warning has been taken (R140). -/
def State.lamp (s : State) (p : PortNo) : Lamp := if s.isShutdown then .off else (s.port p).lamp

/-! ## Custodian lines -/

/-- The custodian line. -/
def CustodyUnit.line (c : CustodyUnit) : Line → CustodianLine
  | .a => c.lineA
  | .b => c.lineB

/-- The custodian line replaced. -/
def CustodyUnit.setLine (c : CustodyUnit) (l : Line) (x : CustodianLine) : CustodyUnit :=
  match l with
  | .a => { c with lineA := x }
  | .b => { c with lineB := x }

/-- The custodian line changed by `f`. -/
def State.updLine (s : State) (l : Line) (f : CustodianLine → CustodianLine) : State :=
  { s with custody := s.custody.setLine l (f (s.custody.line l)) }

/-- The custodian present on a line. -/
def State.present? (s : State) (l : Line) : Option Nat := (s.custody.line l).presence.map (·.custodian)

/-- The two custodian numbers of the window, or 0 for each when it is CLOSED (R34, R207). -/
def State.windowPair (s : State) : Nat × Nat :=
  match s.custody.window with
  | some w => (w.custodianA, w.custodianB)
  | none => (0, 0)

/-- The window is OPEN (R34). -/
def State.windowOpen (s : State) : Bool := s.custody.window.isSome

/-! ## Consequences within a step -/

/-- A consequence put behind those already waiting. -/
def State.tell (s : State) (t : Task) : State := { s with agenda := s.agenda ++ [t] }

end Sys2Proof.Machine
end

