-- ==== Sys2Proof/Machine/Link.lean ====
section
/-! DEFINITION. The workstation link: frames, replies, and the Link Controller's own checks of a request
(R184 to R189, R199). -/

namespace Sys2Proof.Machine

/-- A frame on the workstation link: start byte, body length, body, CRC-16 over length and body (R199). -/
def linkFrame (body : List Byte) : List Byte :=
  0xA5 :: (be 2 body.length ++ body ++ crcBytes (be 2 body.length ++ body))

/-- A reply body: group, verb and tag echoed, status, attention count, attention port, result (R189). -/
def replyBody (l : LinkController) (o : Owed) (st : Status) (result : List Byte) : List Byte :=
  [o.group, o.verb, o.tag] ++ be 1 st.code ++ be 1 l.attentionCount ++ be 1 l.attentionPort ++ result

/-- The owner's answer to the request whose reply is owed, taken once: the reply is formed with the attention
fields as they are now (R188, R189). -/
def State.answer (s : State) (st : Status) (result : List Byte) : State :=
  match s.link.owed with
  | none => s
  | some o =>
    match o.body with
    | some _ => s
    | none => { s with link := { s.link with owed := some { o with body := some (replyBody s.link o st result) } } }

/-- A refusal with an empty result (R189). -/
def State.refuse (s : State) (st : Status) : State := s.answer st []

/-- The reply frame owed, once its body is formed. -/
def State.replyFrame? (s : State) : Option (List Byte) := (s.link.owed.bind (·.body)).map linkFrame

/-- A NAK reply becomes owed: 0xFF for group, verb and tag, an empty result (R187). -/
def State.owedNak (s : State) (st : Status) : State :=
  State.answer { s with link := { s.link with owed := some ⟨0xFF, 0xFF, 0xFF, none⟩ } } st []

/-- An overrun: the frame is dropped, the count rises and LINK-ERROR is raised (R186, R187). -/
def State.countOverrun (s : State) : State :=
  State.raiseGlobal { s with link := { s.link with overruns := saturate 65535 (s.link.overruns + 1) } } .linkError

/-- A FORM error counted (R187). -/
def State.countForm (s : State) : State :=
  State.raiseGlobal { s with link := { s.link with formErrors := saturate 65535 (s.link.formErrors + 1) } } .linkError

/-- A CRC error counted (R187). -/
def State.countCrc (s : State) : State :=
  State.raiseGlobal { s with link := { s.link with crcErrors := saturate 65535 (s.link.crcErrors + 1) } } .linkError

/-- The receiver put into a state. -/
def State.setReceiver (s : State) (r : Receiver) : State := { s with link := { s.link with receiver := r } }

/-- The shape of a request's parameter field: the single byte 0x00, or a length in bytes (R188, R200). -/
inductive Shape where
  | bare
  | bytes (n : Nat)
deriving DecidableEq, Repr

/-- The length of a parameter field. -/
def Shape.length : Shape → Nat
  | .bare => 1
  | .bytes n => n

/-- A good frame reaches the receiver: in HUNTING with no reply owed it is taken and `k` follows; with a reply
owed it is an overrun frame, dropped and counted; in the other receiver states its bytes are passed over
(R185, R186). -/
def State.takeFrame (s : State) (group verb tag : Byte) (params : List Byte) (k : State → State) : State :=
  match s.link.receiver with
  | .hunting =>
    match s.link.owed with
    | some _ => s.countOverrun
    | none =>
      k { s with link := { s.link with
            owed := some ⟨group, verb, tag, none⟩
            buffer := group :: verb :: tag :: params } }
  | _ => s

/-- The Link Controller's checks of a request of the catalogue, in the order of R188; `everyMode` is set for
DEV.IDENTIFY and DEV.STATUS. A request that passes goes to its owner. -/
def State.request (s : State) (group verb : Byte) (shape : Shape) (everyMode : Bool) (tag : Byte)
    (params : List Byte) (owner : State → State) : State :=
  s.takeFrame group verb tag params (fun s =>
    if s.link.mode = .starting && !everyMode then s.refuse .starting
    else if s.link.mode = .shutdown && !everyMode then s.refuse .shutdown
    else if params.length ≠ shape.length then s.refuse .badLength
    else if shape = .bare && params ≠ [0] then s.refuse .badValue
    else owner s)

end Sys2Proof.Machine
end

