-- ==== Sys2Proof/Machine/Device.lean ====
section
/-! DEFINITION. The workstation link's own events and the DEV and EVT requests (chapter 10). -/

namespace Sys2Proof.Machine

/-! ## Link events (R185 to R188) -/

/-- A frame begun in HUNTING: `k` follows with no reply owed; with a reply owed it is an overrun frame; in the
other receiver states its bytes are passed over (R185, R186). -/
def State.frameBegun (s : State) (k : State → State) : State :=
  match s.link.receiver with
  | .hunting =>
    match s.link.owed with
    | some _ => s.countOverrun
    | none => k s
  | _ => s

/-- LINK_BAD_LENGTH: FORM, and the receiver goes to RESYNC (R185). -/
def execLinkBadLength (length : BitVec 16) (s : State) : Host.Outcome State Fault Refusal :=
  .next (if linkLengthOk length.toNat then s else s.frameBegun (fun s => s.countForm.setReceiver .resync))

/-- LINK_BYTE_GAP: FORM; the quiet has been had, so a NAK-FORM reply is owed at once (R185, R187). -/
def execLinkByteGap (received : List Byte) (s : State) : Host.Outcome State Fault Refusal :=
  .next (s.frameBegun (fun s =>
    State.owedNak { s.countForm with link := { s.countForm.link with buffer := received.drop 2 } } .nakForm))

/-- LINK_CRC_ERROR: counted and answered NAK-CRC (R185, R187). -/
def execLinkCrcError (body : List Byte) (crc : BitVec 16) (s : State) : Host.Outcome State Fault Refusal :=
  .next (if !linkLengthOk body.length || crc = framedCrc body then s
    else s.frameBegun (fun s =>
      State.owedNak { s.countCrc with link := { s.countCrc.link with buffer := body } } .nakCrc))

/-- LINK_RESYNC_QUIET: a NAK-FORM reply is owed and the receiver hunts again (R185). -/
def execLinkResyncQuiet (s : State) : Host.Outcome State Fault Refusal :=
  .next (if s.link.receiver = .resync && s.link.owed.isNone then (s.setReceiver .hunting).owedNak .nakForm else s)

/-- The receiver after what has arrived of an overrun frame, start byte apart: SKIPPING until its length says it
is whole; HUNTING at once for a length below 4 or above 1024 (R186). -/
def afterOverrun (received : List Byte) : Receiver :=
  if received.length < 2 then .skipping
  else
    let n := number received 0 2
    if !linkLengthOk n || n + 4 ≤ received.length then .hunting else .skipping

/-- LINK_OVERRUN_FRAME: dropped unanswered, counted as OVERRUN and skipped by its length (R186, R187). -/
def execLinkOverrunFrame (received : List Byte) (s : State) : Host.Outcome State Fault Refusal :=
  .next (if s.link.receiver = .hunting && s.link.owed.isSome then s.countOverrun.setReceiver (afterOverrun received)
    else s)

/-- LINK_SKIP_GAP: a gap inside an overrun frame ends its skipping (R186). -/
def execLinkSkipGap (s : State) : Host.Outcome State Fault Refusal :=
  .next (if s.link.receiver = .skipping then s.setReceiver .hunting else s)

/-- LINK_REPLY_SENT: no reply is owed any more; the reply of a DEV.RESTART makes the restart due (R186,
R194). -/
def execLinkReplySent (s : State) : Host.Outcome State Fault Refusal :=
  .next (match s.link.owed.bind (·.body) with
    | some _ => { s with link := { s.link with
        owed := none, restart := if s.link.restart = .replyOwed then .due else s.link.restart } }
    | none => s)

/-- UNKNOWN_REQUEST: the mode's status, else BAD-REQUEST (R188). -/
def execUnknownRequest (group verb tag : Byte) (params : List Byte) (s : State) : Host.Outcome State Fault Refusal :=
  .next (if catalogued group verb then s
    else s.takeFrame group verb tag params (fun s =>
      match s.link.mode with
      | .starting => s.refuse .starting
      | .shutdown => s.refuse .shutdown
      | .ready => s.refuse .badRequest))

/-! ## DEV (R191 to R194) -/

/-- The vendor name, the part name, the revision and the part's serial number (R192, R200). -/
def identityBytes : List Byte :=
  padTo 16 0x20 (ascii "ZIRTANA") ++ padTo 16 0x20 (ascii "SIRGAN SK16") ++ be 2 Config.revision.toNat
    ++ be 8 Config.partSerial.toNat

/-- DEV.IDENTIFY (R192). -/
def execDevIdentify (tag : Byte) (params : List Byte) (s : State) : Host.Outcome State Fault Refusal :=
  .next (s.request 1 1 .bare true tag params (fun s => s.answer .ok identityBytes))

/-- The window's state, CLOSED 1 or OPEN 2, and its two custodian numbers when OPEN (R193, R200). -/
def State.windowBytes (s : State) : List Byte :=
  [if s.windowOpen then 2 else 1] ++ present 1 (s.custody.window.map (fun w => be 1 w.custodianA))
    ++ present 1 (s.custody.window.map (fun w => be 1 w.custodianB))

/-- The journal state and free places as DEV.STATUS reports them: not yet known in STARTING (R193, R200). In a SHUTDOWN
that PFW brought at start-up, before any scan, the free places are counted by the segment states kept from before the
reset: the model's choice, on which R193 is silent (log entry 10). -/
def State.journalBytes (s : State) : List Byte :=
  if s.link.mode = .starting then 0 :: be 2 0xFFFF else be 1 s.journal.state.code ++ be 2 s.journal.freeReported

/-- The result of DEV.STATUS (R193). The number of flags pending is 1 byte: the model's choice, since R200 lists no such
kind of field (log entry 19). -/
def State.statusBytes (s : State) : List Byte :=
  be 1 s.link.mode.code ++ [boolByte s.link.rateHigh] ++ s.stamp.bytes ++ [boolByte s.pins.tamper, boolByte s.keys.zeroizing]
    ++ s.windowBytes ++ s.engine.holdBytes ++ s.journalBytes ++ be 2 s.link.crcErrors ++ be 2 s.link.formErrors
    ++ be 2 s.link.overruns ++ be 2 s.keys.corrected ++ be 4 s.engine.completed ++ be 1 (countFlags s.link.pending)

/-- DEV.STATUS (R193). -/
def execDevStatus (tag : Byte) (params : List Byte) (s : State) : Host.Outcome State Fault Refusal :=
  .next (s.request 1 2 .bare true tag params (fun s => s.answer .ok s.statusBytes))

/-- DEV.TIME: the reply reports the count and flag as they were (R191). -/
def execDevTime (tag : Byte) (params : List Byte) (s : State) : Host.Outcome State Fault Refusal :=
  .next (s.request 1 3 (.bytes 4) false tag params (fun s =>
    State.answer { s with link := { s.link with seconds := number params 0 4, timeSet := true } } .ok s.stamp.bytes))

/-- DEV.RESTART: the reply is owed, and the part restarts when it has been sent. A restart already due stays due, so
that the flash goes on starting nothing further (R194, log entry 11). -/
def execDevRestart (tag : Byte) (params : List Byte) (s : State) : Host.Outcome State Fault Refusal :=
  .next (s.request 1 4 .bare false tag params (fun s =>
    State.answer { s with link := { s.link with
      restart := if s.link.restart = .due then .due else .replyOwed } } .ok []))

/-! ## EVT (R196, R197) -/

/-- A flag set as 11 bytes (R200). -/
def flagSetBytes (v : BitVec 88) : List Byte := be 11 v.toNat

/-- EVT.READ: the pending flags are returned and exactly those cleared (R196). -/
def execEvtRead (tag : Byte) (params : List Byte) (s : State) : Host.Outcome State Fault Refusal :=
  .next (s.request 2 1 .bare false tag params (fun s =>
    State.answer { s with link := { s.link with pending := 0 } } .ok (flagSetBytes s.link.pending)))

/-- EVT.MASK: the whole mask is written and the one it replaces reported (R197). -/
def execEvtMask (tag : Byte) (params : List Byte) (s : State) : Host.Outcome State Fault Refusal :=
  .next (s.request 2 2 (.bytes 11) false tag params (fun s =>
    let mask := BitVec.ofNat 88 (ofBE params)
    if mask &&& unusedFlagBits ≠ 0 then s.refuse .badValue
    else State.answer { s with link := { s.link with mask := mask } } .ok (flagSetBytes s.link.mask)))

end Sys2Proof.Machine
end

