-- ==== Sys2Proof/Machine/Frames.lean ====
section
/-! DEFINITION. Frames on a bench line: how characters become a frame and a frame characters, and what the
terminal's frames carry (R122 to R124, R201, R202). -/

namespace Sys2Proof.Machine

/-- A bench frame: type code, sequence number and payload. -/
structure BenchFrame where
  type : Byte
  seq : Byte
  payload : List Byte
deriving DecidableEq, Repr

/-- The start byte of a bench frame (R201). -/
def benchStart : Byte := 0x3C

/-- The check of a run of frame bytes by the port's check kind (R198). -/
def Settings.check (g : Settings) (bytes : List Byte) : List Byte := if g.lrc then [lrc8 bytes] else crcBytes bytes

/-- The length of the check. -/
def Settings.checkLength (g : Settings) : Nat := if g.lrc then 1 else 2

/-- The characters of a frame of the port: start byte, length, type, sequence number, payload and check, each
byte transformed as the line wants it (R122, R201). -/
def Settings.frameChars (g : Settings) (type seq : Byte) (payload : List Byte) : List Byte :=
  let counted := type :: seq :: payload
  let covered := be 1 counted.length ++ counted
  (benchStart :: (covered ++ g.check covered)).map (toLine g.swapped g.msbFirst)

/-- The frame bytes of received characters (R122). -/
def Settings.frameBytes (g : Settings) (chars : List Byte) : List Byte := chars.map (fromLine g.swapped g.msbFirst)

/-- A length the frame type allows: the types of the terminal's set, each with the lengths of its row
(R123, R202). -/
def typeAllows (type : Byte) (length : Nat) : Bool :=
  match type.toNat with
  | 0x21 => 13 ≤ length && length ≤ 29
  | 0x22 => length == 2
  | 0x23 => length == 5
  | 0x24 => length == 3
  | 0x25 => length == 2
  | _ => false

/-- How the characters of a frame are judged as they arrive (R123). -/
inductive Judged where
  /-- a whole frame, its length allowed for its type and its check correct -/
  | good (f : BenchFrame)
  /-- a whole frame whose check differs -/
  | badCheck
  /-- a length outside 2 to 96, or not allowed for the type -/
  | badLength
  /-- a frame begun and not yet whole -/
  | begun
  /-- no start byte at the front -/
  | noFrame
deriving DecidableEq, Repr

/-- The judgement of received characters: the length on the length byte, again on the type byte, and the check
when the frame is whole (R123). -/
def Settings.judge (g : Settings) (chars : List Byte) : Judged :=
  match g.frameBytes chars with
  | [] => .noFrame
  | start :: rest =>
    if start ≠ benchStart then .noFrame
    else
      match rest with
      | [] => .begun
      | len :: body =>
        let n := len.toNat
        if n < 2 || 96 < n then .badLength
        else
          match body with
          | [] => .begun
          | type :: _ =>
            if !typeAllows type n then .badLength
            else if body.length < n + g.checkLength then .begun
            else if g.check (len :: body.take n) = (body.drop n).take g.checkLength then
              .good ⟨type, body.getD 1 0, (body.take n).drop 2⟩
            else .badCheck

/-- The terminal's identity in the payload of a HELLO (R202). -/
def helloTerminal (payload : List Byte) : Terminal where
  maker := number payload 0 2
  model := number payload 2 2
  firmware := number payload 4 2
  canD16 := payload.getD 6 0 != 0
  canA16 := payload.getD 7 0 != 0
  canA32 := payload.getD 8 0 != 0
  highestIndex := min 15 (number payload 9 1)
  fresh := payload.getD 10 0 != 0
  serial := payload.drop 11

/-- The terminal can hold a key of the kind (R202). -/
def Terminal.can (t : Terminal) : KeyKind → Bool
  | .d16 => t.canD16
  | .a16 => t.canA16
  | .a32 => t.canA32

/-- The type a frame must have to answer one of the port's frames (R125). -/
def FrameType.answeredBy : FrameType → Byte → Bool
  | .welcome, t => t == 0x22
  | .wait, t => t == 0x22
  | .load, t => t == 0x23 || t == 0x24
  | .commit, t => t == 0x25 || t == 0x24
  | _, _ => false

end Sys2Proof.Machine
end

