-- ==== Sys2Proof/Machine/Cipher.lean ====
section
/-! DEFINITION. The block ciphers the manual uses as public ones and takes as given (00_scope.md, "What this
manual covers"): AES encryption with a 128-bit or 256-bit key, and DES with triple-DES of R71. The manual
writes E(key, block) and gives no tables; the tables here are those of the public standards (PRESUMED, log
entry 2). -/

namespace Sys2Proof.Machine

/-! ## AES -/

/-- The AES S-box. -/
def aesSbox : List Byte :=
  [0x63, 0x7c, 0x77, 0x7b, 0xf2, 0x6b, 0x6f, 0xc5, 0x30, 0x01, 0x67, 0x2b, 0xfe, 0xd7, 0xab, 0x76]
    ++  [0xca, 0x82, 0xc9, 0x7d, 0xfa, 0x59, 0x47, 0xf0, 0xad, 0xd4, 0xa2, 0xaf, 0x9c, 0xa4, 0x72, 0xc0]
    ++  [0xb7, 0xfd, 0x93, 0x26, 0x36, 0x3f, 0xf7, 0xcc, 0x34, 0xa5, 0xe5, 0xf1, 0x71, 0xd8, 0x31, 0x15]
    ++  [0x04, 0xc7, 0x23, 0xc3, 0x18, 0x96, 0x05, 0x9a, 0x07, 0x12, 0x80, 0xe2, 0xeb, 0x27, 0xb2, 0x75]
    ++  [0x09, 0x83, 0x2c, 0x1a, 0x1b, 0x6e, 0x5a, 0xa0, 0x52, 0x3b, 0xd6, 0xb3, 0x29, 0xe3, 0x2f, 0x84]
    ++  [0x53, 0xd1, 0x00, 0xed, 0x20, 0xfc, 0xb1, 0x5b, 0x6a, 0xcb, 0xbe, 0x39, 0x4a, 0x4c, 0x58, 0xcf]
    ++  [0xd0, 0xef, 0xaa, 0xfb, 0x43, 0x4d, 0x33, 0x85, 0x45, 0xf9, 0x02, 0x7f, 0x50, 0x3c, 0x9f, 0xa8]
    ++  [0x51, 0xa3, 0x40, 0x8f, 0x92, 0x9d, 0x38, 0xf5, 0xbc, 0xb6, 0xda, 0x21, 0x10, 0xff, 0xf3, 0xd2]
    ++  [0xcd, 0x0c, 0x13, 0xec, 0x5f, 0x97, 0x44, 0x17, 0xc4, 0xa7, 0x7e, 0x3d, 0x64, 0x5d, 0x19, 0x73]
    ++  [0x60, 0x81, 0x4f, 0xdc, 0x22, 0x2a, 0x90, 0x88, 0x46, 0xee, 0xb8, 0x14, 0xde, 0x5e, 0x0b, 0xdb]
    ++  [0xe0, 0x32, 0x3a, 0x0a, 0x49, 0x06, 0x24, 0x5c, 0xc2, 0xd3, 0xac, 0x62, 0x91, 0x95, 0xe4, 0x79]
    ++  [0xe7, 0xc8, 0x37, 0x6d, 0x8d, 0xd5, 0x4e, 0xa9, 0x6c, 0x56, 0xf4, 0xea, 0x65, 0x7a, 0xae, 0x08]
    ++  [0xba, 0x78, 0x25, 0x2e, 0x1c, 0xa6, 0xb4, 0xc6, 0xe8, 0xdd, 0x74, 0x1f, 0x4b, 0xbd, 0x8b, 0x8a]
    ++  [0x70, 0x3e, 0xb5, 0x66, 0x48, 0x03, 0xf6, 0x0e, 0x61, 0x35, 0x57, 0xb9, 0x86, 0xc1, 0x1d, 0x9e]
    ++  [0xe1, 0xf8, 0x98, 0x11, 0x69, 0xd9, 0x8e, 0x94, 0x9b, 0x1e, 0x87, 0xe9, 0xce, 0x55, 0x28, 0xdf]
    ++  [0x8c, 0xa1, 0x89, 0x0d, 0xbf, 0xe6, 0x42, 0x68, 0x41, 0x99, 0x2d, 0x0f, 0xb0, 0x54, 0xbb, 0x16]


/-- One byte through the S-box. -/
def aesSub (b : Byte) : Byte := aesSbox.getD b.toNat 0

/-- Multiplication by x in the AES field. -/
def aesDouble (b : Byte) : Byte := (b <<< 1) ^^^ (if b.msb then 0x1B else 0)

/-- One column through MixColumns. -/
def aesMixColumn : List Byte → List Byte
  | [a, b, c, d] =>
    [aesDouble a ^^^ aesDouble b ^^^ b ^^^ c ^^^ d, a ^^^ aesDouble b ^^^ aesDouble c ^^^ c ^^^ d,
      a ^^^ b ^^^ aesDouble c ^^^ aesDouble d ^^^ d, aesDouble a ^^^ a ^^^ b ^^^ c ^^^ aesDouble d]
  | other => other

/-- ShiftRows: byte `r` of column `c` comes from column `c + r`. -/
def aesShiftRows (st : List Byte) : List Byte :=
  [0, 5, 10, 15, 4, 9, 14, 3, 8, 13, 2, 7, 12, 1, 6, 11].map (fun i => st.getD i 0)

/-- MixColumns on the four columns of a state. -/
def aesMixColumns (st : List Byte) : List Byte :=
  aesMixColumn (st.take 4) ++ aesMixColumn ((st.drop 4).take 4) ++ aesMixColumn ((st.drop 8).take 4)
    ++ aesMixColumn ((st.drop 12).take 4)

/-- The word after `prev` in the key schedule, for word number `i` of a key of `nk` words; `back` is the word
`nk` places before. -/
def aesNextWord (nk i : Nat) (rcon : Byte) (back prev : List Byte) : List Byte :=
  let w :=
    if i % nk = 0 then
      match prev with
      | [a, b, c, d] => [aesSub b ^^^ rcon, aesSub c, aesSub d, aesSub a]
      | other => other
    else if nk = 8 && i % nk = 4 then prev.map aesSub
    else prev
  xorBytes back w

/-- The key schedule: `n` further words, the words so far with the last first. -/
def aesExpand (nk : Nat) : Nat → Nat → Byte → List (List Byte) → List (List Byte)
  | 0, _, _, ws => ws
  | n + 1, i, rcon, ws =>
    let next := aesNextWord nk i rcon (ws.getD (nk - 1) []) (ws.headD [])
    aesExpand nk n (i + 1) (if i % nk = 0 then aesDouble rcon else rcon) (next :: ws)

/-- A byte string in words of four bytes. -/
def fourByFour : Nat → List Byte → List (List Byte)
  | 0, _ => []
  | n + 1, bs => bs.take 4 :: fourByFour n (bs.drop 4)

/-- The round keys of a key of 16 or 32 bytes, 16 bytes each. -/
def aesRoundKeys (key : List Byte) : List (List Byte) :=
  let nk := key.length / 4
  let total := 4 * (nk + 7)
  let words := (aesExpand nk (total - nk) nk 1 (fourByFour nk key).reverse).reverse
  (List.range (nk + 7)).map (fun r => ((words.drop (4 * r)).take 4).flatten)

/-- The rounds after the first key addition; the last one has no MixColumns. -/
def aesRounds : List (List Byte) → List Byte → List Byte
  | [], st => st
  | [k], st => xorBytes (aesShiftRows (st.map aesSub)) k
  | k :: ks, st => aesRounds ks (xorBytes (aesMixColumns (aesShiftRows (st.map aesSub))) k)

/-- E(key, block) for AES: the key is 16 or 32 bytes, the block 16 bytes. -/
def aesEncrypt (key block : List Byte) : List Byte :=
  match aesRoundKeys key with
  | [] => block
  | k :: ks => aesRounds ks (xorBytes block k)

/-! ## DES and triple-DES -/

/-- The bits of the `n`-bit number `x` at the places of a table, place 1 the most significant. -/
def desPermute (n : Nat) (table : List Nat) (x : Nat) : Nat :=
  table.foldl (fun acc i => acc * 2 + (x >>> (n - i)) % 2) 0

/-- The initial permutation. -/
def desIP : List Nat :=
  [58, 50, 42, 34, 26, 18, 10, 2, 60, 52, 44, 36, 28, 20, 12, 4]
  ++ [62, 54, 46, 38, 30, 22, 14, 6, 64, 56, 48, 40, 32, 24, 16, 8]
  ++ [57, 49, 41, 33, 25, 17, 9, 1, 59, 51, 43, 35, 27, 19, 11, 3]
  ++ [61, 53, 45, 37, 29, 21, 13, 5, 63, 55, 47, 39, 31, 23, 15, 7]

/-- The final permutation. -/
def desFP : List Nat :=
  [40, 8, 48, 16, 56, 24, 64, 32, 39, 7, 47, 15, 55, 23, 63, 31]
  ++ [38, 6, 46, 14, 54, 22, 62, 30, 37, 5, 45, 13, 53, 21, 61, 29]
  ++ [36, 4, 44, 12, 52, 20, 60, 28, 35, 3, 43, 11, 51, 19, 59, 27]
  ++ [34, 2, 42, 10, 50, 18, 58, 26, 33, 1, 41, 9, 49, 17, 57, 25]

/-- The expansion of a half block. -/
def desE : List Nat :=
  [32, 1, 2, 3, 4, 5, 4, 5, 6, 7, 8, 9, 8, 9, 10, 11]
  ++ [12, 13, 12, 13, 14, 15, 16, 17, 16, 17, 18, 19, 20, 21, 20, 21]
  ++ [22, 23, 24, 25, 24, 25, 26, 27, 28, 29, 28, 29, 30, 31, 32, 1]

/-- The permutation of a round. -/
def desP : List Nat :=
  [16, 7, 20, 21, 29, 12, 28, 17, 1, 15, 23, 26, 5, 18, 31, 10]
  ++ [2, 8, 24, 14, 32, 27, 3, 9, 19, 13, 30, 6, 22, 11, 4, 25]

/-- The first key permutation, which drops the lowest bit of each key byte. -/
def desPC1 : List Nat :=
  [57, 49, 41, 33, 25, 17, 9, 1, 58, 50, 42, 34, 26, 18, 10, 2]
  ++ [59, 51, 43, 35, 27, 19, 11, 3, 60, 52, 44, 36, 63, 55, 47, 39]
  ++ [31, 23, 15, 7, 62, 54, 46, 38, 30, 22, 14, 6, 61, 53, 45, 37]
  ++ [29, 21, 13, 5, 28, 20, 12, 4]

/-- The second key permutation. -/
def desPC2 : List Nat :=
  [14, 17, 11, 24, 1, 5, 3, 28, 15, 6, 21, 10, 23, 19, 12, 4]
  ++ [26, 8, 16, 7, 27, 20, 13, 2, 41, 52, 31, 37, 47, 55, 30, 40]
  ++ [51, 45, 33, 48, 44, 49, 39, 56, 34, 53, 46, 42, 50, 36, 29, 32]

/-- The rotations of the key halves. -/
def desShifts : List Nat := [1, 1, 2, 2, 2, 2, 2, 2, 1, 2, 2, 2, 2, 2, 2, 1]

/-- S-box 1, row by row. -/
def desS1 : List Nat :=
  [14, 4, 13, 1, 2, 15, 11, 8, 3, 10, 6, 12, 5, 9, 0, 7]
  ++ [0, 15, 7, 4, 14, 2, 13, 1, 10, 6, 12, 11, 9, 5, 3, 8]
  ++ [4, 1, 14, 8, 13, 6, 2, 11, 15, 12, 9, 7, 3, 10, 5, 0]
  ++ [15, 12, 8, 2, 4, 9, 1, 7, 5, 11, 3, 14, 10, 0, 6, 13]

/-- S-box 2, row by row. -/
def desS2 : List Nat :=
  [15, 1, 8, 14, 6, 11, 3, 4, 9, 7, 2, 13, 12, 0, 5, 10]
  ++ [3, 13, 4, 7, 15, 2, 8, 14, 12, 0, 1, 10, 6, 9, 11, 5]
  ++ [0, 14, 7, 11, 10, 4, 13, 1, 5, 8, 12, 6, 9, 3, 2, 15]
  ++ [13, 8, 10, 1, 3, 15, 4, 2, 11, 6, 7, 12, 0, 5, 14, 9]

/-- S-box 3, row by row. -/
def desS3 : List Nat :=
  [10, 0, 9, 14, 6, 3, 15, 5, 1, 13, 12, 7, 11, 4, 2, 8]
  ++ [13, 7, 0, 9, 3, 4, 6, 10, 2, 8, 5, 14, 12, 11, 15, 1]
  ++ [13, 6, 4, 9, 8, 15, 3, 0, 11, 1, 2, 12, 5, 10, 14, 7]
  ++ [1, 10, 13, 0, 6, 9, 8, 7, 4, 15, 14, 3, 11, 5, 2, 12]

/-- S-box 4, row by row. -/
def desS4 : List Nat :=
  [7, 13, 14, 3, 0, 6, 9, 10, 1, 2, 8, 5, 11, 12, 4, 15]
  ++ [13, 8, 11, 5, 6, 15, 0, 3, 4, 7, 2, 12, 1, 10, 14, 9]
  ++ [10, 6, 9, 0, 12, 11, 7, 13, 15, 1, 3, 14, 5, 2, 8, 4]
  ++ [3, 15, 0, 6, 10, 1, 13, 8, 9, 4, 5, 11, 12, 7, 2, 14]

/-- S-box 5, row by row. -/
def desS5 : List Nat :=
  [2, 12, 4, 1, 7, 10, 11, 6, 8, 5, 3, 15, 13, 0, 14, 9]
  ++ [14, 11, 2, 12, 4, 7, 13, 1, 5, 0, 15, 10, 3, 9, 8, 6]
  ++ [4, 2, 1, 11, 10, 13, 7, 8, 15, 9, 12, 5, 6, 3, 0, 14]
  ++ [11, 8, 12, 7, 1, 14, 2, 13, 6, 15, 0, 9, 10, 4, 5, 3]

/-- S-box 6, row by row. -/
def desS6 : List Nat :=
  [12, 1, 10, 15, 9, 2, 6, 8, 0, 13, 3, 4, 14, 7, 5, 11]
  ++ [10, 15, 4, 2, 7, 12, 9, 5, 6, 1, 13, 14, 0, 11, 3, 8]
  ++ [9, 14, 15, 5, 2, 8, 12, 3, 7, 0, 4, 10, 1, 13, 11, 6]
  ++ [4, 3, 2, 12, 9, 5, 15, 10, 11, 14, 1, 7, 6, 0, 8, 13]

/-- S-box 7, row by row. -/
def desS7 : List Nat :=
  [4, 11, 2, 14, 15, 0, 8, 13, 3, 12, 9, 7, 5, 10, 6, 1]
  ++ [13, 0, 11, 7, 4, 9, 1, 10, 14, 3, 5, 12, 2, 15, 8, 6]
  ++ [1, 4, 11, 13, 12, 3, 7, 14, 10, 15, 6, 8, 0, 5, 9, 2]
  ++ [6, 11, 13, 8, 1, 4, 10, 7, 9, 5, 0, 15, 14, 2, 3, 12]

/-- S-box 8, row by row. -/
def desS8 : List Nat :=
  [13, 2, 8, 4, 6, 15, 11, 1, 10, 9, 3, 14, 5, 0, 12, 7]
  ++ [1, 15, 13, 8, 10, 3, 7, 4, 12, 5, 6, 11, 0, 14, 9, 2]
  ++ [7, 11, 4, 1, 9, 12, 14, 2, 0, 6, 10, 13, 15, 3, 5, 8]
  ++ [2, 1, 14, 7, 4, 10, 8, 13, 15, 12, 9, 0, 3, 5, 6, 11]

/-- The eight S-boxes. -/
def desBoxes : List (List Nat) := [desS1, desS2, desS3, desS4, desS5, desS6, desS7, desS8]

/-- A 28-bit half rotated to the left. -/
def desRotate (k x : Nat) : Nat := ((x <<< k) ||| (x >>> (28 - k))) % 2 ^ 28

/-- The round keys, from the two key halves and the rotations still to make. -/
def desSchedule : List Nat → Nat → Nat → List Nat
  | [], _, _ => []
  | k :: ks, c, d =>
    let c' := desRotate k c
    let d' := desRotate k d
    desPermute 56 desPC2 (c' * 2 ^ 28 + d') :: desSchedule ks c' d'

/-- The S-box outputs of a 48-bit round input, from the first box on. -/
def desSubstitute : List (List Nat) → Nat → Nat → Nat → Nat
  | [], _, _, acc => acc
  | box :: boxes, i, x, acc =>
    let b := (x >>> (42 - 6 * i)) % 64
    desSubstitute boxes (i + 1) x (acc * 16 + box.getD ((b / 32 * 2 + b % 2) * 16 + b / 2 % 16) 0)

/-- The sixteen rounds; the halves are exchanged at the end. -/
def desRounds : List Nat → Nat → Nat → Nat
  | [], l, r => r * 2 ^ 32 + l
  | k :: ks, l, r =>
    desRounds ks r (l ^^^ desPermute 32 desP (desSubstitute desBoxes 0 (desPermute 32 desE r ^^^ k) 0))

/-- The DES key schedule of an 8-byte key. -/
def desKeys (key : List Byte) : List Nat :=
  let k := desPermute 64 desPC1 (ofBE key)
  desSchedule desShifts (k / 2 ^ 28) (k % 2 ^ 28)

/-- One block through the rounds under a list of round keys. -/
def desBlock (keys : List Nat) (block : List Byte) : List Byte :=
  let x := desPermute 64 desIP (ofBE block)
  be 8 (desPermute 64 desFP (desRounds keys (x / 2 ^ 32) (x % 2 ^ 32)))

/-- Single DES encryption. -/
def desEncrypt (key block : List Byte) : List Byte := desBlock (desKeys key) block

/-- Single DES decryption. -/
def desDecrypt (key block : List Byte) : List Byte := desBlock (desKeys key).reverse block

/-- E(key, block) for triple-DES under a 16-byte key used in two halves: encrypted under the first,
decrypted under the second, encrypted under the first (R71). -/
def tdesEncrypt (key block : List Byte) : List Byte :=
  desEncrypt (key.take 8) (desDecrypt (key.drop 8) (desEncrypt (key.take 8) block))

end Sys2Proof.Machine
end

