-- ==== Sys2Proof/Machine/Derive.lean ====
section
/-! DEFINITION. The exact computation from device number to load block (chapter 4). -/

namespace Sys2Proof.Machine

/-- The issue label: key set number, device number, use counter 00 00 (R64). -/
def issueLabel (keySet device : Nat) : List Byte := be 4 keySet ++ be 4 device ++ [0, 0]

/-- The key length of a kind in bits, two bytes (R65, R73). -/
def lengthBits (k : KeyKind) : List Byte := be 2 (8 * k.length)

/-- The derivation data D(i) of a DERIVED item: block index, kind code, usage code, key set number and device
number from the issue label, 00 00, output length in bits (R65). -/
def derivationBlock (i : Nat) (kind : KeyKind) (usage : Nat) (label : List Byte) : List Byte :=
  be 1 i ++ be 1 kind.code ++ be 2 usage ++ label.take 8 ++ [0, 0] ++ lengthBits kind

/-- The blocks an output kind needs: the first alone, or the first and the second for A32 (R66, R70). -/
def blocksFor (kind : KeyKind) (block : Nat → List Byte) : List (List Byte) :=
  match kind with
  | .a32 => [block 1, block 2]
  | _ => [block 1]

/-- The derivation blocks of a DERIVED item (R66). -/
def derivationBlocks (item : Item) (label : List Byte) : List (List Byte) :=
  blocksFor item.kind (fun i => derivationBlock i item.kind item.usage label)

/-- The serial field: the last 12 characters of the serial, or the serial right-aligned behind bytes 0x30
(R69). -/
def serialTwelve (serial : List Byte) : List Byte :=
  List.replicate (12 - serial.length) 0x30 ++ serial.drop (serial.length - 12)

/-- The usage code of the wrapping key (R70). -/
def wkUsage : Nat := 0x7701

/-- The usage code of the authentication key (R70). -/
def akUsage : Nat := 0x7702

/-- The transport derivation block T(i): i, the transport slot's kind code, the usage code, the serial field
(R70). -/
def transportBlock (i : Nat) (kind : KeyKind) (usage : Nat) (serial : List Byte) : List Byte :=
  be 1 i ++ be 1 kind.code ++ be 2 usage ++ serialTwelve serial

/-- The transport derivation blocks under one usage (R70). -/
def transportBlocks (kind : KeyKind) (usage : Nat) (serial : List Byte) : List (List Byte) :=
  blocksFor kind (fun i => transportBlock i kind usage serial)

/-- The output of a DERIVE job: each block encrypted under the source key, joined; for output kind D16 the
parity adjustment follows (R47, R67). -/
def deriveKey (source : List Byte) (blocks : List (List Byte)) (outKind : KeyKind) : List Byte :=
  let out := blocks.flatMap (aesEncrypt source)
  if outKind = .d16 then adjustParity out else out

/-- The check value of a key: the first 3 bytes of the encryption of an all-zero block (R71). -/
def checkValue (kind : KeyKind) (key : List Byte) : List Byte :=
  match kind with
  | .d16 => (tdesEncrypt key (List.replicate 8 0)).take 3
  | _ => (aesEncrypt key (List.replicate 16 0)).take 3

/-- The load header of item `n`: version, key index, kind code, item number, usage code, key length in bits
(R73). -/
def loadHeader (item : Item) (n : Nat) : List Byte :=
  [1] ++ be 1 item.index ++ be 1 item.kind.code ++ be 1 n ++ be 2 item.usage ++ lengthBits item.kind

/-- The starting value: the header followed by 8 bytes of 00 (R74). -/
def startingValue (header : List Byte) : List Byte := header ++ List.replicate 8 0

/-- The ciphertext blocks of a key under WK: each block is exclusive-ored with the one before it, the first
with the starting value (R74). -/
def wrapBlocks (wk : List Byte) : Nat → List Byte → List Byte → List (List Byte)
  | 0, _, _ => []
  | n + 1, chain, p =>
    let c := aesEncrypt wk (xorBytes (p.take 16) chain)
    c :: wrapBlocks wk n c (p.drop 16)

/-- The mask: the header, the item's check value, 5 bytes of 00 (R75). -/
def tagMask (header check : List Byte) : List Byte := header ++ check ++ List.replicate 5 0

/-- The tag: the first 4 bytes of E(AK, last ciphertext block XOR mask) (R75). -/
def tagOf (ak header check lastBlock : List Byte) : List Byte :=
  (aesEncrypt ak (xorBytes lastBlock (tagMask header check))).take 4

/-- The load block of an item: header, ciphertext, tag (R76). -/
def loadBlock (wk ak header check key : List Byte) : List Byte :=
  let cs := wrapBlocks wk (key.length / 16) (startingValue header) key
  header ++ cs.flatten ++ tagOf ak header check (cs.getLastD [])

/-- The components of an assembly combined by exclusive-or in the order of the parts list, with the parity
adjustment for D16 (R41, R68). -/
def combineParts (kind : KeyKind) (components : List (List Byte)) : List Byte :=
  let x := components.foldl xorBytes (List.replicate kind.length 0)
  if kind = .d16 then adjustParity x else x

end Sys2Proof.Machine
end

