-- ==== Sys2Proof/Machine/Memory.lean ====
section
/-! DEFINITION. Reads of the protected memory through the error check, and what a single or a double error does
(R5 to R7, R81, R82, R90). A group of words carries its latent errors; they come to light when the group is
read. -/

namespace Sys2Proof.Machine

/-! ## One group -/

/-- A read of the group finds a word with two wrong bits (R5). A group marked unreadable finds nothing again
(R7). -/
def GroupMem.fails (g : GroupMem) : Bool := g.double && !g.unreadable

/-- The single errors a read of the group finds and corrects; the words of a group that cannot be read are
left as they are (R5, R7). -/
def GroupMem.found (g : GroupMem) : Nat := if g.double || g.unreadable then 0 else g.singles

/-- The group after its single errors have been written back corrected (R5). -/
def GroupMem.corrected (g : GroupMem) : GroupMem := if g.double || g.unreadable then g else { g with singles := 0 }

/-- The group marked unreadable when a read of it finds a double error (R7). -/
def GroupMem.marked (g : GroupMem) : GroupMem := if g.double then { g with unreadable := true } else g

/-- A wrong bit that arises in a group of `words` words, or two in one word. As many words as the group has can have one
wrong bit each; once all have, a further wrong bit is the second of some word (R5; log entry 8). -/
def GroupMem.upset (words : Nat) (twoBits : Bool) (g : GroupMem) : GroupMem :=
  if twoBits || words ≤ g.singles then { g with double := true } else { g with singles := g.singles + 1 }

/-- Single errors counted: the counter rises by one for each word and MEMORY-CORRECTED is raised once (R5). -/
def State.countCorrected (s : State) (n : Nat) : State :=
  if n = 0 then s
  else State.raiseGlobal { s with keys := { s.keys with corrected := saturate 65535 (s.keys.corrected + n) } }
    .memoryCorrected

/-! ## Slots -/

/-- The errors of one group of a slot. -/
def SlotMem.get (m : SlotMem) : SlotGroup → GroupMem
  | .state => m.state
  | .identity => m.identity
  | .key => m.key
  | .check => m.check
  | .range => m.range

/-- The errors of one group of a slot changed by `f`. -/
def SlotMem.upd (m : SlotMem) (g : SlotGroup) (f : GroupMem → GroupMem) : SlotMem :=
  match g with
  | .state => { m with state := f m.state }
  | .identity => { m with identity := f m.identity }
  | .key => { m with key := f m.key }
  | .check => { m with check := f m.check }
  | .range => { m with range := f m.range }

/-- Several groups changed by `f`. -/
def SlotMem.updAll (m : SlotMem) (gs : List SlotGroup) (f : GroupMem → GroupMem) : SlotMem :=
  gs.foldl (fun m g => m.upd g f) m

/-- How many words a group of the slot record has: the key group four for a 16-byte key and eight for a 32-byte key (R6),
and eight, room for either, while the slot has no key kind (log entry 8). -/
def Slot.groupWords (x : Slot) : SlotGroup → Nat
  | .state => Config.furtherSlotWords .state + 1
  | .identity => Config.furtherSlotWords .identity + 1
  | .key => (x.kind.map (fun k => k.length / 4)).getD 8
  | .check => Config.furtherSlotWords .check + 1
  | .range => Config.furtherSlotWords .range + 1

/-- The number of sessions that report a hold on slot `i` (R7). -/
def State.reportedHolds (s : State) (i : SlotNo) : Nat :=
  (s.ports.list.filter (fun q => (q.session.map (fun x => x.slotHolds.contains i)).getD false)).length

/-- A read of the groups `gs` of slot `i` beside its state group, as the Key Store makes it: single errors are
corrected, and a double error acts by the slot's state (R5 to R7). What a damaged assembly slot does to its
assembly follows in `State.readSlot`. -/
def State.readSlotWords (s : State) (i : SlotNo) (gs : List SlotGroup) : State :=
  let x := s.slot i
  let all := SlotGroup.state :: gs
  let singles := (all.map (fun g => (x.mem.get g).found)).sum
  let fixedMem := x.mem.updAll all GroupMem.corrected
  let s := s.countCorrected singles
  if x.mem.state.fails then
    State.raiseGlobal (s.setSlot i { x with
      state := .damaged
      holders := s.reportedHolds i
      mem := (fixedMem.updAll gs GroupMem.marked).upd .state (fun _ => GroupMem.clean) }) .keyDamaged
  else if gs.any (fun g => (x.mem.get g).fails) then
    match x.state with
    | .empty => s.setSlot i { x with mem := SlotMem.clean }
    | .damaged => s.setSlot i { x with mem := fixedMem.updAll gs GroupMem.marked }
    | _ => State.raiseGlobal (s.setSlot i { x with
        state := .damaged
        mem := (fixedMem.updAll gs GroupMem.marked).upd .state (fun _ => GroupMem.clean) }) .keyDamaged
  else s.setSlot i { x with mem := fixedMem }

/-- The slot's identity group cannot be read. -/
def Slot.identityLost (x : Slot) : Bool := x.mem.identity.unreadable

/-- The slot's check group cannot be read. -/
def Slot.checkLost (x : Slot) : Bool := x.mem.check.unreadable

/-- The slot's range group cannot be read. -/
def Slot.rangeLost (x : Slot) : Bool := x.mem.range.unreadable

/-- The slot's role as a profile's validation judges it: an EMPTY slot, or one whose identity group cannot be
read, has none (R85). -/
def Slot.judgedRole (x : Slot) : Option Role :=
  if x.state = .empty || x.identityLost then none else x.role

/-! ## Profiles -/

/-- The group of item `n`, 1 to 4. -/
def itemGroup : Nat → ProfGroup
  | 1 => .item1
  | 2 => .item2
  | 3 => .item3
  | _ => .item4

/-- The errors of one group of a profile. -/
def ProfileMem.get (m : ProfileMem) : ProfGroup → GroupMem
  | .state => m.state
  | .heading => m.heading
  | .item1 => m.item1
  | .item2 => m.item2
  | .item3 => m.item3
  | .item4 => m.item4

/-- The errors of one group of a profile changed by `f`. -/
def ProfileMem.upd (m : ProfileMem) (g : ProfGroup) (f : GroupMem → GroupMem) : ProfileMem :=
  match g with
  | .state => { m with state := f m.state }
  | .heading => { m with heading := f m.heading }
  | .item1 => { m with item1 := f m.item1 }
  | .item2 => { m with item2 := f m.item2 }
  | .item3 => { m with item3 := f m.item3 }
  | .item4 => { m with item4 := f m.item4 }

/-- Several groups changed by `f`. -/
def ProfileMem.updAll (m : ProfileMem) (gs : List ProfGroup) (f : GroupMem → GroupMem) : ProfileMem :=
  gs.foldl (fun m g => m.upd g f) m

/-- The groups a whole read of a profile makes beside the state group: the heading, and the item groups up to
the item count (R81). The item count is in the heading: where the heading has a double error or is unreadable no item
group is read, which is the model's choice, R81 naming no groups for that case (log entry 27). -/
def Profile.wholeGroups (x : Profile) : List ProfGroup :=
  let items := if x.mem.heading.fails || x.mem.heading.unreadable then 0
    else (x.contents.map (fun d => d.items.length)).getD 0
  .heading :: (List.range items).map (fun k => itemGroup (k + 1))

/-- A read of the groups `gs` of profile `i` beside its state group (R5, R82). -/
def State.readProfileWords (s : State) (i : Fin 16) (gs : List ProfGroup) : State :=
  let x := s.profile i
  let all := ProfGroup.state :: gs
  let singles := (all.map (fun g => (x.mem.get g).found)).sum
  let fixedMem := x.mem.updAll all GroupMem.corrected
  let s := s.countCorrected singles
  if x.mem.state.fails then
    State.raiseGlobal (s.setProfile i { x with
      state := .damaged
      mem := (fixedMem.updAll gs GroupMem.marked).upd .state (fun _ => GroupMem.clean) }) .profileDamaged
  else if gs.any (fun g => (x.mem.get g).fails) then
    match x.state with
    | .undefined => s.setProfile i { x with mem := ProfileMem.clean }
    | .damaged => s.setProfile i { x with mem := fixedMem.updAll gs GroupMem.marked }
    | .defined => State.raiseGlobal (s.setProfile i { x with
        state := .damaged
        mem := (fixedMem.updAll gs GroupMem.marked).upd .state (fun _ => GroupMem.clean) }) .profileDamaged
  else s.setProfile i { x with mem := fixedMem }

/-- A whole read of profile `i`, as a greeting, a dispatch and PROF.READ make it (R81). -/
def State.readProfile (s : State) (i : Fin 16) : State := s.readProfileWords i (s.profile i).wholeGroups

/-- A read of the state group of profile `i` alone (R81). -/
def State.readProfileState (s : State) (i : Fin 16) : State := s.readProfileWords i []

/-! ## Recognition entries -/

/-- A read of an entry's control group, and of its match group when `both` is set. A double error in either
leaves the entry disabled and marked DAMAGED; PROFILE-DAMAGED is raised unless it was marked before (R5, R90).
The control group is rewritten then, with fresh check bits; a match group that fails is left and marked unreadable,
and a control group that fails leaves the target unreadable. The written flag of a control group that fails is kept:
the model's choice, which R90 leaves open (log entry 27). -/
def State.readEntry (s : State) (i : Fin 32) (both : Bool) : State :=
  let x := s.entry i
  let controlFails := x.control.fails
  let matchFails := both && x.contents.fails
  let s := s.countCorrected (x.control.found + (if both then x.contents.found else 0))
  let contents := if both then x.contents.corrected.marked else x.contents
  let x' := { x with
    control := if controlFails || matchFails then GroupMem.clean else x.control.corrected
    targetLost := x.targetLost || controlFails
    contents := contents
    enabled := x.enabled && !(controlFails || matchFails)
    damaged := x.damaged || controlFails || matchFails }
  let s := s.setEntry i x'
  if (controlFails || matchFails) && !x.damaged then s.raiseGlobal .profileDamaged else s

end Sys2Proof.Machine
end

