-- ==== Sys2Proof/Machine/Engine.lean ====
section
/-! DEFINITION. The Cipher Engine and its arbiter: submission, removal and marks, the choice of the next
requester, the gathering of keys, and what a job computes (R47 to R59). -/

namespace Sys2Proof.Machine

/-- The engine changed by `f`. -/
def State.updEngine (s : State) (f : Engine → Engine) : State := { s with engine := f s.engine }

/-- The requester of a bench port (chapter 3). -/
def portRequester (p : PortNo) : Fin 17 := p.castSucc

/-- Requester 16, of the Custody Unit and of SLOT.VERIFY. -/
def custodyRequester : Fin 17 := 16

/-- The job is a SLOT.VERIFY job: requester 16 with a slot as key source (R48). -/
def Job.isVerify (j : Job) : Bool :=
  j.requester == custodyRequester && (match j.source with | .slot _ => true | _ => false)

/-- The job reads a slot key at its grant (R58). -/
def Job.readsSlot (j : Job) : Bool := match j.source with | .slot _ => true | _ => false

/-! ## Key areas (R50, R51) -/

/-- The key in a position. -/
def KeyArea.get (a : KeyArea) : Position → Option HeldKey
  | .wk => a.wk
  | .ak => a.ak
  | .k1 => a.k1
  | .k2 => a.k2
  | .k3 => a.k3
  | .k4 => a.k4

/-- The key area with a position filled, replacing what it held (R47). -/
def KeyArea.set (a : KeyArea) (k : Position) (key : HeldKey) : KeyArea :=
  match k with
  | .wk => { a with wk := some key }
  | .ak => { a with ak := some key }
  | .k1 => { a with k1 := some key }
  | .k2 => { a with k2 := some key }
  | .k3 => { a with k3 := some key }
  | .k4 => { a with k4 := some key }

/-- The position of item `n`, 0 for the first (section 5.1). -/
def itemPosition : Nat → Position
  | 0 => .k1
  | 1 => .k2
  | 2 => .k3
  | _ => .k4

/-! ## Requesters (R52, R53, R59) -/

/-- The requester has a job waiting or in flight (R52). -/
def Engine.busy (e : Engine) (r : Fin 17) : Bool :=
  (e.waiting.look r).isSome || (e.inFlight.map (fun f => f.job.requester)) == some r

/-- A job submitted: it waits, or its requester keeps it while an earlier one is waiting or in flight
(R52). -/
def Engine.submit (e : Engine) (j : Job) : Engine :=
  if e.busy j.requester then { e with kept := e.kept.put j.requester (some j) }
  else { e with waiting := e.waiting.put j.requester (some j) }

/-- A kept job is submitted once its requester has no job waiting or in flight (R52). -/
def Engine.promote (e : Engine) (r : Fin 17) : Engine :=
  match e.kept.look r with
  | some j =>
    if e.busy r then e else { e with waiting := e.waiting.put r (some j), kept := e.kept.put r none }
  | none => e

/-- The job in flight marked, unless it carries a mark already (R58, R59). -/
def Engine.markIf (e : Engine) (m : JobMark) (which : Job → Bool) : Engine :=
  { e with inFlight := e.inFlight.map (fun f =>
      if which f.job && f.mark = .none then { f with mark := m } else f) }

/-- The work of the jobs of requester `r` that `which` picks has ended: a kept or waiting one is removed, one in
flight is marked DISCARDED (R53, R59). -/
def Engine.withdraw (e : Engine) (r : Fin 17) (which : Job → Bool) : Engine :=
  let drop (o : Option Job) : Option Job := o.filter (fun j => !which j)
  let e := { e with waiting := e.waiting.put r (drop (e.waiting.look r)), kept := e.kept.put r (drop (e.kept.look r)) }
  (e.markIf .discarded (fun j => j.requester = r && which j)).promote r

/-! ## The arbiter (R54) -/

/-- A hold cause is present (section 3.6). -/
def Engine.held (e : Engine) : Bool := e.holdHost || e.holdZeroize || e.holdShutdown

/-- The first requester with a waiting job from the pointer on, going on from 16 to 0 (R54). -/
def Engine.nextRequester? (e : Engine) : Option (Fin 17) :=
  ((List.range 17).map (fun k => (⟨(e.pointer.val + k) % 17, Nat.mod_lt _ (by decide)⟩ : Fin 17))).find?
    (fun r => (e.waiting.look r).isSome)

/-- The requester after `r`, 17 taken as 0 (R54). -/
def requesterAfter (r : Fin 17) : Fin 17 := ⟨(r.val + 1) % 17, Nat.mod_lt _ (by decide)⟩

/-- The job the arbiter grants, if it grants one: the engine is idle, no hold cause is present and a job is
waiting (R54). -/
def Engine.granted? (e : Engine) : Option Job :=
  if e.inFlight.isSome || e.held then none else e.nextRequester?.bind (fun r => e.waiting.look r)

/-- The engine after a grant: the job no longer waits and the pointer is past its requester (R54). -/
def Engine.grant (e : Engine) (j : Job) : Engine :=
  { e with waiting := e.waiting.put j.requester none, pointer := requesterAfter j.requester }

/-! ## Gathering keys (R12, R55) -/

/-- What the key read at the grant gives (R55). -/
inductive Gathered where
  | key (kind : KeyKind) (bytes : List Byte)
  | damaged
  | zeroized
deriving DecidableEq, Repr

/-- The engine's read of a slot key, of the groups state and key (R6, R12). -/
def State.readSlotKey (s : State) (i : SlotNo) : Gathered × State :=
  let s := s.readSlotWords i [.key]
  let x := s.slot i
  (match x.state, x.kind with
    | .damaged, _ => .damaged
    | .active, some k => .key k (x.key.take k.length)
    | .suspended, some k => .key k (x.key.take k.length)
    | _, _ => .zeroized, s)

/-- The port of a requester, if it is a bench port's. -/
def requesterPort? (r : Fin 17) : Option PortNo := below 16 r.val

/-- A key of the requesting port's key area. -/
def State.positionKey (s : State) (r : Fin 17) (k : Position) : Option HeldKey :=
  (requesterPort? r).bind (fun p => (s.port p).keyArea.get k)

/-- The key a job computes with, gathered at its grant (R55). A position that holds no key gives none, and the
job ends at its start; no session submits such a job. -/
def State.gatherKey (s : State) (j : Job) : Gathered × State :=
  match j.source with
  | .slot i => s.readSlotKey i
  | .position k =>
    (match s.positionKey j.requester k with
      | some h => .key h.kind h.bytes
      | none => .zeroized, s)
  | .component =>
    (match s.custody.assembly, s.custody.intake with
      | some a, c :: _ => .key a.kind c.component
      | _, _ => .zeroized, s)
  | .combined =>
    (match s.custody.assembly with
      | some a => .key a.kind (combineParts a.kind (a.parts.map (·.component)))
      | none => .zeroized, s)

/-- The job in flight from its grant on, with the keys gathered (R55). -/
def State.launch (s : State) (j : Job) (kind : KeyKind) (bytes : List Byte) : State :=
  let area (k : Position) : List Byte := ((s.positionKey j.requester k).map (·.bytes)).getD []
  s.updEngine (fun e => { e with inFlight := some ⟨j, kind, bytes, area .wk, area .ak, .none⟩ })

/-! ## What a job computes (R47 to R49) -/

/-- The bytes a job's computation gives: a DERIVE its key, a CHECK its check value, a WRAP its load block. -/
def InFlight.result (f : InFlight) : List Byte :=
  match f.job.work with
  | .derive blocks outKind _ => deriveKey f.key blocks outKind
  | .check => checkValue f.kind f.key
  | .wrap header check => loadBlock f.wk f.ak header check f.key

/-- The outcome of a job (section 3.5). -/
inductive JobOutcome where
  | done (result : List Byte)
  | keyDamaged
  | zeroized
  | discarded
deriving DecidableEq, Repr

/-- The outcome of a job whose computation is complete: DONE, or its mark (R56). -/
def InFlight.outcome (f : InFlight) : JobOutcome :=
  match f.mark with
  | .none => .done f.result
  | .zeroized => .zeroized
  | .discarded => .discarded

/-- The engine after the job in flight has ended: idle, the count raised for DONE, and a kept job of the
requester submitted (R52, R56). -/
def Engine.finish (e : Engine) (f : InFlight) : Engine :=
  Engine.promote { e with
    inFlight := none
    completed := if f.mark = .none then saturate 0xFFFFFFFF (e.completed + 1) else e.completed } f.job.requester

end Sys2Proof.Machine
end

