-- ==== Sys2Proof/Machine/Journal.lean ====
section
/-! DEFINITION. The Journal's operations: acceptance, the waiters, the warning, the write queue, the flash, the
ends of programs and erases (R164 to R177, R183). -/

namespace Sys2Proof.Machine

/-- The Journal changed by `f`. -/
def State.updJournal (s : State) (f : Journal → Journal) : State := { s with journal := f s.journal }

/-! ## The warning (R170) -/

/-- The free count judged against the warning level (R170). -/
def State.judgeHigh (s : State) : State :=
  if s.journal.free ≤ s.journal.warnLevel then
    if s.journal.highNoted then s
    else State.raiseGlobal (s.updJournal (fun j => { j with highNoted := true })) .journalHigh
  else s.updJournal (fun j => { j with highNoted := false })

/-! ## Acceptance (R168) -/

/-- Who asks for acceptance: a session for one place, or a custody request for one or two. -/
inductive Asker where
  | session (p : PortNo)
  | custody (places : Nat)
deriving DecidableEq, Repr

/-- How many places are asked for. -/
def Asker.places : Asker → Nat
  | .session _ => 1
  | .custody n => n

/-- The entry belongs to port `p`. -/
def QueueEntry.ofPort (p : PortNo) : QueueEntry → Bool
  | .issue part _ => part.port == p
  | .custody _ => false
  | .settle e => e.port == some p

/-- Port `p` has an entry in the run part of the write queue. -/
def Journal.portQueued (j : Journal) (p : PortNo) : Bool := j.runQueue.any (QueueEntry.ofPort p)

/-- The condition of acceptance particular to the asker (R168). -/
def Journal.askerOk (j : Journal) : Asker → Bool
  | .session p => !j.portQueued p
  | .custody n => j.custodyOut + n ≤ 7

/-- Every condition of acceptance holds; `serving` is set when the waiters list is being served (R168). -/
def Journal.acceptable (j : Journal) (serving : Bool) (a : Asker) : Bool :=
  j.state == .working && decide ((3 + a.places : Int) < j.free) && (serving || j.waiters.isEmpty) && j.askerOk a

/-- The promise made by an acceptance (R168). -/
def Journal.promise (j : Journal) : Asker → Journal
  | .session _ => { j with promised := j.promised + 1 }
  | .custody n => { j with promised := j.promised + n, custodyOut := j.custodyOut + n }

/-- A refusal's flags: JOURNAL-FULL, and JOURNAL-FAULT in FAULT (R168). -/
def State.noteRefusal (s : State) : State :=
  (s.raiseGlobal .journalFull).raiseWhen (s.journal.state == .fault) .journalFault

/-- A custody request asks for `n` places: accepted or refused, with the flags of a refusal (R168). -/
def State.askCustody (s : State) (n : Nat) : Bool × State :=
  if s.journal.acceptable false (.custody n) then (true, (s.updJournal (·.promise (.custody n))).judgeHigh)
  else (false, s.noteRefusal)

/-- The Journal's answer to a session (R168). -/
inductive PlaceAnswer where
  | accepted | waits | inFault
deriving DecidableEq, Repr

/-- A session's refusal is for its port's entry alone: every other condition holds (R168). -/
def Journal.entryAlone (j : Journal) : Bool :=
  j.state == .working && decide ((4 : Int) < j.free) && j.waiters.isEmpty

/-- A session on port `p` asks for a place: it is accepted, joins the journal waiters, or is told of FAULT
(R168). -/
def State.askSession (s : State) (p : PortNo) : PlaceAnswer × State :=
  if s.journal.acceptable false (.session p) then (.accepted, (s.updJournal (·.promise (.session p))).judgeHigh)
  else if s.journal.state = .working then
    (.waits, (if s.journal.entryAlone then s else s.noteRefusal).updJournal
      (fun j => { j with waiters := j.waiters ++ [p] }))
  else (.inFault, s.noteRefusal)

/-- One waiter served, if it can be accepted: it leaves the list and its session is told (R169). -/
def State.serveWaiter (s : State) (p : PortNo) : State :=
  if s.journal.acceptable true (.session p) then
    let s := (s.updJournal (fun j => { j.promise (.session p) with waiters := j.waiters.erase p })).judgeHigh
    (s.updSession p (fun x => { x with placeAccepted := true })).tell (.placeAccepted p)
  else s

/-- The journal waiters list served from its head (R169). -/
def State.serveWaiters (s : State) : State := s.journal.waiters.foldl State.serveWaiter s

/-- A promise ends by give-back: the counts fall, the warning is judged and the waiters are served (R168,
R169). -/
def State.giveBack (s : State) (a : Asker) : State :=
  let fall (j : Journal) : Journal :=
    match a with
    | .session _ => { j with promised := j.promised - 1 }
    | .custody n => { j with promised := j.promised - n, custodyOut := j.custodyOut - n }
  ((s.updJournal fall).judgeHigh).serveWaiters

/-- A port leaves the journal waiters (R169). -/
def State.leaveWaiters (s : State) (p : PortNo) : State :=
  s.updJournal (fun j => { j with waiters := j.waiters.erase p })

/-! ## The write queue (R171) -/

/-- An entry put at the end of the run part. -/
def State.enqueue (s : State) (e : QueueEntry) : State :=
  s.updJournal (fun j => { j with runQueue := j.runQueue ++ [e] })

/-- A CUSTODY record queued into a place already accepted, with the time as it stands. -/
def State.queueCustody (s : State) (t : CustodyType) (pair : Nat × Nat) (fields : List Byte) : State :=
  s.enqueue (.custody ⟨t, s.stamp, pair.1, pair.2, fields⟩)

/-- The head of the write queue: of the start-up part while it is not empty, then of the run part. -/
def Journal.head? (j : Journal) : Option QueueEntry :=
  match j.startQueue with
  | e :: _ => some e
  | [] => j.runQueue.head?

/-- The head entry leaves the queue. -/
def Journal.popHead (j : Journal) : Journal :=
  match j.startQueue with
  | _ :: es => { j with startQueue := es }
  | [] => { j with runQueue := j.runQueue.drop 1 }

/-- The head entry replaced. -/
def Journal.setHead (j : Journal) (e : QueueEntry) : Journal :=
  match j.startQueue with
  | _ :: es => { j with startQueue := e :: es }
  | [] => { j with runQueue := e :: j.runQueue.drop 1 }

/-- A settlement attached to the ISSUE append of port `p` (R157, R171). -/
def Journal.attach (j : Journal) (p : PortNo) (t : Settlement) : Journal :=
  { j with runQueue := j.runQueue.map (fun e =>
      match e with
      | .issue part none => if part.port = p then .issue part (some t) else e
      | _ => e) }

/-- The Journal has an ISSUE append of port `p` waiting or being programmed. -/
def Journal.issueQueued (j : Journal) (p : PortNo) : Bool :=
  j.runQueue.any (fun e => match e with | .issue part none => part.port == p | _ => false)

/-- The settlement of port `p` is being programmed, so its content can no longer change (R156). -/
def Journal.settleBegun (j : Journal) (p : PortNo) : Bool :=
  match j.flash, j.head? with
  | .programming (.settle _), some (.settle e) => e.port == some p
  | _, _ => false

/-- Port `p` has a settlement in the write queue, waiting or being programmed. -/
def Journal.settleQueued (j : Journal) (p : PortNo) : Bool :=
  j.runQueue.any (fun e => match e with | .settle x => x.port == some p | _ => false)

/-- The settlement entry of port `p` changed by `f` (R156, R171). -/
def Journal.updSettle (j : Journal) (p : PortNo) (f : SettlementEntry → SettlementEntry) : Journal :=
  { j with runQueue := j.runQueue.map (fun e =>
      match e with
      | .settle x => if x.port = some p then .settle (f x) else e
      | _ => e) }

/-- The ZEROIZED record of a zeroization (R183): the count of one waiting for its program rises, or a new one
is queued from the reserve, or a flag says that none is written. Three points are the model's choice, R183 and R171
leaving them open (log entry 28): a record whose program has begun, or whose first attempt has failed and waits for an
erase, no longer waits, so that a second is queued behind it; in FAULT the flag is raised and the count of one that
waits stands; and with no place free the count of one that waits rises without JOURNAL-FULL. -/
def State.queueZeroized (s : State) : State :=
  let started := match s.journal.flash, s.journal.startQueue with
    | .programming _, [] => true
    | _, _ => s.journal.headFailed
  let waiting := if started then s.journal.runQueue.drop 1 else s.journal.runQueue
  let isZ (e : QueueEntry) : Bool := match e with | .custody r => r.type == .zeroized | _ => false
  let bump (e : QueueEntry) : QueueEntry :=
    match e with
    | .custody r =>
      if r.type = .zeroized then .custody { r with fields := be 1 (saturate 255 (ofBE r.fields + 1)) } else e
    | _ => e
  match s.journal.state with
  | .stopped => s
  | .fault => s.raiseGlobal .journalFault
  | .working =>
    if waiting.any isZ then
      s.updJournal (fun j => { j with
        runQueue := (if started then j.runQueue.take 1 else []) ++ waiting.map bump })
    else if 1 ≤ s.journal.free then
      ((s.updJournal (fun j => { j with promised := j.promised + 1 })).queueCustody .zeroized (0, 0)
        (be 1 1)).judgeHigh
    else s.raiseGlobal .journalFull

/-! ## Drops and FAULT (R174) -/

/-- The end of the promise of an append: a custody promise accepted under R168 also lowers the custody places
outstanding; the ZEROIZED record's does not (R168, R183). -/
def Journal.endPromise (j : Journal) (e : QueueEntry) : Journal :=
  match e with
  | .custody r =>
    if r.type = .zeroized then { j with promised := j.promised - 1 }
    else { j with promised := j.promised - 1, custodyOut := j.custodyOut - 1 }
  | .issue _ _ => { j with promised := j.promised - 1 }
  | .settle _ => j

/-- A dropped ISSUE record is reported to its session, if that has not ended, as not programmed (R150,
R174). -/
def State.reportDropped (s : State) (e : QueueEntry) : State :=
  match e with
  | .issue part none => s.updSession part.port (fun x => { x with unprogrammed := true })
  | _ => s

/-- The Journal's waiters are ended: each is told, and leaves (R169). -/
def State.endWaiters (s : State) : State :=
  let s' := s.journal.waiters.foldl (fun s p => s.tell (.journalFault p)) s
  s'.updJournal (fun j => { j with waiters := [] })

/-- The append at the head is dropped: its promise ends, JOURNAL-FAULT is raised and the Journal is in FAULT
(R174). -/
def State.dropHead (s : State) (e : QueueEntry) : State :=
  let s := s.updJournal (fun j => { (j.endPromise e).popHead with state := .fault, headFailed := false })
  (((s.reportDropped e).judgeHigh).raiseGlobal .journalFault).endWaiters

/-! ## The flash takes its next operation (R172) -/

/-- The flash starts nothing further, and an operation in progress runs to its end: in STOPPED, and once a restart is
due (R180, R194). -/
def State.flashStops (s : State) : Bool := s.journal.state == .stopped || s.link.restart == .due

/-- A counter's word read through the error check: whether it can be used, and the state after (R5). -/
def State.readNextSeq (s : State) : Bool × State :=
  let m := s.journal.nextSeq.mem
  let s := (s.countCorrected m.found).updJournal (fun j => { j with nextSeq := ⟨j.nextSeq.value, m.corrected⟩ })
  (!m.double, s)

/-- The word of released-through read through the error check (R5). -/
def State.readReleased (s : State) : Bool × State :=
  let m := s.journal.released.mem
  let s := (s.countCorrected m.found).updJournal (fun j => { j with released := ⟨j.released.value, m.corrected⟩ })
  (!m.double, s)

/-- The erase at the head of the erase list starts: the segment becomes ERASING and its records leave the held
set (R172, R177). -/
def State.startErase (s : State) : State :=
  match s.journal.eraseList with
  | [] => s
  | i :: rest => s.updJournal (fun j =>
      { (j.updSegment i (fun g => { g with state := .erasing })) with eraseList := rest, flash := .erasing i })

/-- An erased place can be found for an append: in the ACTIVE segment or by opening an ERASED one. -/
def Journal.hasPlace (j : Journal) : Bool := 0 < j.erasedPlaces

/-- The bytes an append's program writes under a sequence number. -/
def appendBytes (seq : Nat) : QueueEntry → List Byte
  | .issue part _ => issueBytes seq part
  | .custody r => custodyBytes seq r
  | .settle _ => []

/-- The append at the head of the queue is taken up: dropped in FAULT, made to wait for an erase, dropped for
want of a place or of a number, or its program starts with the present next sequence (R167, R172 to R174). -/
def State.startAppend (s : State) (e : QueueEntry) : State :=
  if s.journal.state = .fault then s.dropHead e
  else
    let (usable, s) := s.readNextSeq
    if !usable then s.updJournal (fun j => { j with rebuilding := true })
    else if 0xFFFFFFFF < s.journal.nextSeq.value then s.dropHead e
    else if s.journal.hasPlace then
      s.updJournal (fun j => { j with
        flash := .programming (.append j.nextSeq.value (appendBytes j.nextSeq.value e)) })
    else if s.journal.eraseList.isEmpty then s.dropHead e
    else s.startErase

/-- The flash takes its next operation when it is IDLE and nothing forbids it: the program of the head entry,
or else the erase at the head of the erase list. A settlement that names no record is dropped at the head
(R172, R175). Answers `none` when there is nothing to start. -/
def State.flashNext? (s : State) : Option State :=
  if s.journal.flash ≠ .idle || s.journal.rebuilding || s.flashStops then none
  else
    match s.journal.head? with
    | some (.settle x) =>
      match x.record with
      | some _ => some (s.updJournal (fun j => { j with
          flash := .programming (.settle (settlementBytes x.content)) }))
      | none => some (s.updJournal Journal.popHead).serveWaiters
    | some e => some (s.startAppend e)
    | none => if s.journal.eraseList.isEmpty then none else some s.startErase

/-! ## The end of an append (R164, R173, R174) -/

/-- A failed opening: the bad mark is programmed, the segment is BAD and the count rises (R164). -/
def State.openFailed (s : State) (i : Fin 64) (left : List Byte) : State :=
  State.judgeHigh (s.updJournal (fun j =>
    { (j.updSegment i (fun g => { g with header := withBadMark left, state := .bad })) with
      programFailures := saturate 65535 (j.programFailures + 1) }))

/-- The place for a program: the next erased place of the ACTIVE segment, or the first of a segment opened for
it; `opens` says how each opened mark read back. Answers the segment, if one was found, and the openings not
used. While the flash starts nothing further a failed opening programs no bad mark and tries no further segment; its
segment is shown BAD, the warning is judged by the free count left, and no failure is counted, which is the model's
choice (R164, R170, R180, R194; log entry 17). -/
def State.findPlace (s : State) (seq : Nat) : Nat → List ReadBack → State × Option (Fin 64) × List ReadBack
  | 0, opens => (s, none, opens)
  | fuel + 1, opens =>
    match s.journal.active? with
    | some i => (s, some i, opens)
    | none =>
      match s.journal.nextErased? with
      | none => (s, none, opens)
      | some i =>
        match opens.headD .ok with
        | .ok =>
          (s.updJournal (fun j =>
            { (j.updSegment i (fun g => { g with header := openedHeader seq, state := .active })) with
              lastOpened := i }), some i, opens.drop 1)
        | .fails left =>
          if s.flashStops then
            ((s.updJournal (fun j => j.updSegment i (fun g => { g with header := left, state := .bad }))).judgeHigh, none,
              opens.drop 1)
          else State.findPlace (s.openFailed i left) seq fuel (opens.drop 1)

/-- A place of segment `i` used with the bytes given; when it was the last, the segment is FULL, the full mark is
programmed when `marks` says so, and reclaim is judged (R164, R165, R177). -/
def Journal.fillPlace (j : Journal) (i : Fin 64) (bytes : List Byte) (marks : Bool) : Journal :=
  let j := j.updSegment i (fun g => { g with places := g.places ++ [⟨bytes, false⟩] })
  if (j.segments.look i).hasRoom then j
  else
    let mark (g : Segment) : Segment :=
      { g with state := .full, header := if marks then withFullMark g.header else g.header }
    (j.updSegment i mark).judgeReclaim

/-- A place of segment `i` used with the bytes given; the full mark is programmed unless the flash starts nothing
further, and `fullOk` says whether it verified (R164, R180, R194). -/
def State.usePlace (s : State) (i : Fin 64) (bytes : List Byte) (fullOk : Bool) : State :=
  s.updJournal (fun j => j.fillPlace i bytes (fullOk && !s.flashStops))

/-- A record that verified: its promise ends, next sequence rises and is written back, the session of an ISSUE record
is told, and a settlement attached is programmed next, unless a restart is due; otherwise the entry leaves the queue.
In STOPPED next sequence stands and nobody is told anything more (R167, R173, R180, R194). It is the model's
choice that after record 0xFFFFFFFF next sequence stands at 2^32 (log entry 18), and that the attached settlement is
programmed at once, whatever JRN request waits and also while a rebuild runs (R172, R182; log entry 25). -/
def State.appendDone (s : State) (e : QueueEntry) (seq : Nat) (i : Fin 64) (index : Nat) (bytes : List Byte)
    (fullOk : Bool) : State :=
  let ref : RecordRef := ⟨seq, i, index⟩
  let s := s.updJournal (fun j => { (j.endPromise e) with headFailed := false, flash := .idle })
  if s.journal.state = .stopped then
    let s := s.usePlace i bytes fullOk
    match e with
    | .issue _ (some _) => s
    | _ => s.updJournal Journal.popHead
  else
    let s := s.updJournal (fun j => { j with nextSeq := ⟨seq + 1, GroupMem.clean⟩ })
    let s := s.usePlace i bytes fullOk
    match e with
    | .issue _ (some t) =>
      if s.flashStops then s
      else s.updJournal (fun j => { j with flash := .programming (.attached ref (settlementBytes t)) })
    | .issue part none =>
      let s := (s.updJournal Journal.popHead).updSession part.port (fun x => { x with record := some ref })
      (s.tell (.issueProgrammed part.port)).serveWaiters
    | _ => s.updJournal Journal.popHead

/-- A record that did not verify: the place is void and the count rises (R174). While the flash starts nothing further
the place is left as it reads, which is erased when its kind byte still is; a place so used is one fewer free, and the
warning is judged, and no failure is counted, which is the model's choice (R165, R170, R180, R194; log entry 17). -/
def State.voidPlace (s : State) (i : Fin 64) (left : List Byte) (fullOk : Bool) : State :=
  if s.flashStops then (if (Place.mk left false).isErased then s else (s.usePlace i left false).judgeHigh)
  else State.judgeHigh ((s.usePlace i (overwrite left 0 [0]) fullOk).updJournal (fun j =>
    { j with programFailures := saturate 65535 (j.programFailures + 1) }))

/-- An append that finds no place: it waits when an erase can still run, and is otherwise handled as a second
failure (R172, R174). `failed` says whether its first attempt has failed. -/
def State.appendNoPlace (s : State) (e : QueueEntry) (failed : Bool) : State :=
  let s := s.updJournal (fun j => { j with flash := .idle })
  if s.flashStops then s
  else if s.journal.eraseList.isEmpty then s.dropHead e
  else s.updJournal (fun j => { j with headFailed := failed })

/-- The last attempt of an append: verified, or void and dropped into FAULT (R174). -/
def State.lastAttempt (s : State) (e : QueueEntry) (seq : Nat) (bytes : List Byte) (opens : List ReadBack)
    (result : ReadBack) (fullOk : Bool) : State :=
  match s.findPlace seq 65 opens with
  | (s, none, _) => s.appendNoPlace e true
  | (s, some i, _) =>
    let index := (s.journal.segments.look i).places.length
    match result with
    | .ok => s.appendDone e seq i index bytes fullOk
    | .fails left =>
      let s := s.voidPlace i left fullOk
      let s := s.updJournal (fun j => { j with flash := .idle })
      if s.flashStops then s else s.dropHead e

/-- The end of the program of the append at the head of the queue, with its read-back (R173, R174). -/
def State.appendEnd (s : State) (e : QueueEntry) (seq : Nat) (bytes : List Byte) (r : AppendResult) : State :=
  if s.journal.headFailed then s.lastAttempt e seq bytes r.opens r.first r.fullOk
  else
    match s.findPlace seq 65 r.opens with
    | (s, none, _) => s.appendNoPlace e false
    | (s, some i, opens) =>
      let index := (s.journal.segments.look i).places.length
      match r.first with
      | .ok => s.appendDone e seq i index bytes r.fullOk
      | .fails left =>
        let s := s.voidPlace i left r.fullOk
        if s.flashStops then s.updJournal (fun j => { j with flash := .idle })
        else s.lastAttempt e seq bytes opens r.second r.fullOk

/-! ## The end of a settlement (R175) -/

/-- A settlement part written into its record's place (R175). -/
def Journal.writePart (j : Journal) (ref : RecordRef) (part : List Byte) (failed : Bool) : Journal :=
  j.updSegment ref.segment (fun g => { g with places := g.places.modify ref.place (fun p =>
    { bytes := overwrite p.bytes 48 part, settleFailed := failed }) })

/-- The read-back of a settlement program: settled, or DAMAGED with the count raised and JOURNAL-FAULT
(R175). -/
def State.partProgrammed (s : State) (ref : RecordRef) (bytes : List Byte) (r : ReadBack) : State :=
  match r with
  | .ok => s.updJournal (·.writePart ref bytes false)
  | .fails left =>
    State.raiseGlobal (s.updJournal (fun j =>
      { j.writePart ref left true with programFailures := saturate 65535 (j.programFailures + 1) })) .journalFault

/-! ## The end of an erase (R177) -/

/-- The end of the erase in progress: ERASED with its places free again, or BAD (R177). While the flash starts nothing
further a segment whose erase failed stays ERASING and no failure is counted: the model's choice, R180 being silent (log
entry 17). An erase that fails serves no waiters, which is the model's choice too: R177 names the serving at the ERASED
end alone, where R169 has it at the end of an erase (log entry 28). -/
def State.eraseDone (s : State) (i : Fin 64) (r : EraseResult) : State :=
  let s := s.updJournal (fun j => { j with flash := .idle })
  match r with
  | .erased => ((s.updJournal (fun j => j.updSegment i (fun _ => Segment.blank))).judgeHigh).serveWaiters
  | .notErased header =>
    if s.flashStops then
      s.updJournal (fun j => j.updSegment i (fun g => { g with header := header }))
    else s.updJournal (fun j =>
      { (j.updSegment i (fun g => { g with header := withBadMark header, state := .bad })) with
        eraseFailures := saturate 65535 (j.eraseFailures + 1) })

end Sys2Proof.Machine
end

