-- ==== Sys2Proof/Machine/Custody.lean ====
section
/-! DEFINITION. The Custody Unit's operations: RESULT frames, presences, the window, and the ends of an
assembly (R27 to R33, R37 to R42). -/

namespace Sys2Proof.Machine

/-- The Custody Unit changed by `f`. -/
def State.updCustody (s : State) (f : CustodyUnit → CustodyUnit) : State := { s with custody := f s.custody }

/-! ## RESULT frames (R28, R203, R204) -/

/-- The reasons of a refusal on a custodian line (R28). -/
inductive PadReason where
  | frame | sameCustodian | notPresent | noAssembly | duplicate | check | lineBalance | length | tampered
deriving DecidableEq, Repr

/-- The reason's code (R204). -/
def PadReason.code : PadReason → Nat
  | .frame => 1
  | .sameCustodian => 2
  | .notPresent => 3
  | .noAssembly => 4
  | .duplicate => 5
  | .check => 6
  | .lineBalance => 7
  | .length => 8
  | .tampered => 9

/-- The type code of PRESENCE. -/
def typePresence : Byte := 0x01

/-- The type code of COMPONENT. -/
def typeComponent : Byte := 0x02

/-- The type code of WITHDRAW. -/
def typeWithdraw : Byte := 0x03

/-- The type code a RESULT answers when it answers a bad frame (R204). -/
def typeBadFrame : Byte := 0xFF

/-- A frame on a custodian line (R203). -/
def padFrame (body : List Byte) : List Byte := 0xC3 :: (be 2 body.length ++ body ++ crcBytes (be 2 body.length ++ body))

/-- The body of a RESULT: ACCEPTED for no reason, else REFUSED; the line's custodian, the parts accepted and
needed and the check refusals as they stand (R28, R204). -/
def State.resultBody (s : State) (l : Line) (answers : Byte) (why : Option PadReason) : List Byte :=
  let parts := match s.custody.assembly with
    | some a => be 1 a.parts.length ++ be 1 a.needed ++ be 1 a.refusals
    | none => [0, 0, 0]
  [0x81, answers] ++ [boolByte why.isSome] ++ be 1 ((why.map (·.code)).getD 0) ++ be 1 ((s.present? l).getD 0) ++ parts

/-- A RESULT sent on a custodian line. -/
def State.sendResult (s : State) (l : Line) (answers : Byte) (why : Option PadReason) : State :=
  s.updLine l (fun x => { x with sent := x.sent ++ [padFrame (s.resultBody l answers why)] })

/-! ## Presences and the window (R29 to R33) -/

/-- The length of a presence lifetime, in seconds (section 2.2). -/
def presenceSeconds : Nat := 600

/-- The length of an open window, in seconds (R33). -/
def windowSeconds : Nat := 300

/-- The length of an assembly's limit, in seconds (section 2.4). -/
def assemblySeconds : Nat := 900

/-- The window closes, if it is open, and AUTH-CLOSED is raised; `bar` sets the reopen bar (R33). -/
def State.closeWindow (s : State) (bar : Bool) : State :=
  if s.windowOpen then
    (s.updCustody (fun c => { c with window := none, reopenBar := c.reopenBar || bar })).raiseGlobal .authClosed
  else s

/-- The presence on a line ends, with the effects of a presence end on the window (R30, R31, R33). -/
def State.endPresence (s : State) (l : Line) : State :=
  match s.present? l with
  | some _ => (s.updLine l (fun x => { x with presence := none })).closeWindow false
  | none => s

/-- The window opened with the two custodians present, after the Journal has accepted a place (R32). Line A's number is
the first of the two in its records and reports, line B's the second: the model's choice (log entry 19). -/
def State.openWindow (s : State) (a b : Nat) : State :=
  let s := s.updCustody (fun c => { c with window := some ⟨s.stamp, s.now, a, b⟩ })
  (s.queueCustody .authOpened (a, b) []).raiseGlobal .authOpen

/-- The Custody Unit considers opening the window after a PRESENCE; `begun` says whether it began a presence
(R32). -/
def State.considerWindow (s : State) (begun : Bool) : State :=
  match s.custody.window, s.present? .a, s.present? .b with
  | none, some a, some b =>
    if a ≠ b && (begun || !s.custody.reopenBar) then
      match s.askCustody 1 with
      | (true, s) => s.openWindow a b
      | (false, s) => s
    else s
  | _, _, _ => s

/-! ## Opening, placing and abandoning a slot (R2 to R4) -/

/-- A slot opened for assembly with role, kind and label (R2). -/
def Slot.opened (x : Slot) (role : Role) (kind : KeyKind) (label : List Byte) : Slot :=
  { x with state := .assembling, role := some role, kind := some kind, label := some label
           mem := { x.mem with state := GroupMem.clean, identity := GroupMem.clean } }

/-- A slot whose assembly has been abandoned: EMPTY again (R4). -/
def Slot.abandoned (x : Slot) : Slot :=
  { Slot.blank with holders := x.holders
                    mem := { x.mem with state := GroupMem.clean, identity := GroupMem.clean } }

/-- The Key Store makes an ASSEMBLING slot EMPTY when its assembly fails; any other it leaves (R4). -/
def State.abandonSlot (s : State) (i : SlotNo) : State :=
  let s := s.readSlotWords i []
  if (s.slot i).state = .assembling then s.updSlot i Slot.abandoned else s

/-- A slot with an assembled key placed in it (R3). -/
def Slot.placed (x : Slot) (key check : List Byte) (contributors : List Contributor) (t : Stamp) : Slot :=
  { x with state := .active, holders := 0, key := key, check := some check, contributors := contributors
           activation := some t, range := none, mem := SlotMem.clean }

/-! ## The ends of an assembly (R41, R42) -/

/-- The jobs of the Custody Unit: those of requester 16 that are no SLOT.VERIFY jobs. -/
def custodyJob (j : Job) : Bool := !j.isVerify

/-- The assembly ended: its record and components are gone and the ending is kept (R41, R42). -/
def State.assemblyOver (s : State) (slot : SlotNo) (how : AssemblyEnd) : State :=
  s.updCustody (fun c => { c with assembly := none, lastEnding := some ⟨slot, how, s.link.seconds⟩ })

/-- Every component under check or in the intake answered with one reason and erased (R42). -/
def State.answerIntake (s : State) (why : PadReason) : State :=
  let waiting := s.custody.intake
  let s := s.updCustody (fun c => { c with intake := [], underCheck := false })
  waiting.foldl (fun s e => s.sendResult e.line typeComponent (some why)) s

/-- The assembly in progress fails for the reason given (R42). It keeps that reason when its own read for the abandoning
finds a double error and makes the slot DAMAGED: the model's choice between R42 and R7 (log entry 27). In its record the
check refusals follow the last accepted part present, so fewer than three parts leave the bytes at the end 00: the model's
choice, since R207 gives the fields 7 bytes and no position for an absent part (log entry 19). -/
def State.failAssembly (s : State) (why : AssemblyEnd) : State :=
  match s.custody.assembly with
  | none => s
  | some a =>
    let s := s.abandonSlot a.slot
    let s := s.updEngine (·.withdraw custodyRequester custodyJob)
    let s := (s.queueCustody .assemblyFailed (0, 0)
      (be 1 a.slot.val ++ be 1 why.failureCode ++ counted (fun q : Part => be 1 q.custodian) a.parts
        ++ be 1 a.refusals)).raiseGlobal .assemblyFailed
    (s.assemblyOver a.slot why).answerIntake (if why = .zeroized then .tampered else .noAssembly)

/-- A read of the groups `gs` of slot `i` beside its state group. When it makes an ASSEMBLING slot DAMAGED, the
assembly fails with CHECK (R7). -/
def State.readSlot (s : State) (i : SlotNo) (gs : List SlotGroup) : State :=
  let before := (s.slot i).state
  let s := s.readSlotWords i gs
  if before = .assembling && (s.slot i).state = .damaged
      && (s.custody.assembly.map (·.slot)) == some i then s.failAssembly .check
  else s

/-! ## Components (R37 to R41) -/

/-- A part would complete the assembly (R37). -/
def Assembly.completing (a : Assembly) : Bool := a.parts.length + 1 == a.needed

/-- The checks of a component taken up, in the order of R39: the reason of the first that fails. -/
def State.componentRefusal (s : State) (e : IntakeEntry) : Option PadReason :=
  if s.keys.zeroizing || s.pins.tamper then some .tampered
  else if s.present? e.line ≠ some e.custodian then some .notPresent
  else
    match s.custody.assembly with
    | none => some .noAssembly
    | some a =>
      if a.phase ≠ .collecting then some .noAssembly
      else if e.component.length ≠ a.kind.length then some .length
      else if a.parts.any (fun q => q.custodian == e.custodian) then some .duplicate
      else if a.completing && !(a.parts.any (fun q => q.line == otherLine e.line)) then some .lineBalance
      else none

/-- The next component of the intake taken up, when none is under check: refused at once, or put under check
with a CHECK job on requester 16 (R38, R39). -/
def State.takeUp? (s : State) : Option State :=
  match s.custody.intake with
  | [] => none
  | e :: rest =>
    if s.custody.underCheck then none
    else
      match s.componentRefusal e with
      | some why =>
        some ((s.updCustody (fun c => { c with intake := rest })).sendResult e.line typeComponent (some why))
      | none =>
        some ((s.updCustody (fun c => { c with underCheck := true })).updEngine
          (·.submit ⟨custodyRequester, .component, .check⟩))

/-- The check value of the component under check is the one stated: the part is accepted, and combining begins
when it completes the assembly (R40, R41). -/
def State.acceptPart (s : State) (a : Assembly) (e : IntakeEntry) (check : List Byte) : State :=
  let a' := { a with parts := a.parts ++ [⟨e.custodian, e.line, e.component, check⟩] }
  let complete := decide (a'.parts.length = a.needed)
  let a' := if complete then { a' with phase := .combining, limitPassed := false } else a'
  let s := s.updCustody (fun c => { c with assembly := some a', intake := c.intake.drop 1, underCheck := false })
  let s := s.sendResult e.line typeComponent none
  if complete then s.updEngine (·.submit ⟨custodyRequester, .combined, .check⟩) else s

/-- The check value differs: the component is refused with CHECK, and the assembly fails at the third refusal,
or when its limit has passed meanwhile (R37, R40). -/
def State.refusePart (s : State) (a : Assembly) (e : IntakeEntry) : State :=
  let a' := { a with refusals := a.refusals + 1 }
  let s := s.updCustody (fun c => { c with assembly := some a', intake := c.intake.drop 1, underCheck := false })
  let s := s.sendResult e.line typeComponent (some .check)
  if 3 ≤ a'.refusals then s.failAssembly .checkLimit
  else if a.limitPassed then s.failAssembly .timeout
  else s

/-- The CHECK job of the component under check has ended DONE (R40). -/
def State.componentChecked (s : State) (check : List Byte) : State :=
  match s.custody.assembly, s.custody.intake with
  | some a, e :: _ => if check = e.stated then s.acceptPart a e check else s.refusePart a e
  | _, _ => s

/-- The contributors of an assembly, in the order of its parts list (R41). -/
def Assembly.contributors (a : Assembly) : List Contributor := a.parts.map (fun q => ⟨q.custodian, q.line⟩)

/-- The CHECK job of the combined key has ended DONE: the key is placed and the assembly ends DONE, or it fails
(R3, R41). -/
def State.combinedChecked (s : State) (check : List Byte) : State :=
  match s.custody.assembly with
  | none => s
  | some a =>
    if check ≠ a.expected then s.failAssembly .check
    else
      let s := s.readSlotWords a.slot []
      match (s.slot a.slot).state with
      | .assembling =>
        let key := combineParts a.kind (a.parts.map (·.component))
        let s := s.updSlot a.slot (fun x => x.placed key check a.contributors s.stamp)
        let s := s.queueCustody .slotActivated (0, 0)
          (be 1 a.slot.val ++ be 1 a.role.code ++ be 1 a.kind.code ++ a.label ++ check
            ++ counted Contributor.bytes a.contributors)
        (s.raiseGlobal .assemblyDone).assemblyOver a.slot .done
      | .damaged => s.failAssembly .check
      | _ => s.failAssembly .zeroized

/-- A CHECK job of the Custody Unit has ended DONE (R40, R41). -/
def State.custodyJobDone (s : State) (source : KeySource) (check : List Byte) : State :=
  match source with
  | .combined => s.combinedChecked check
  | _ => s.componentChecked check

end Sys2Proof.Machine
end

