-- ==== Sys2Proof/Machine/KeyStore.lean ====
section
/-! DEFINITION. The Key Store as the sessions and requests use it: holds, device-number allocation, check values
for records (R10, R11, R13 to R15). -/

namespace Sys2Proof.Machine

/-! ## Holds (R10, R11) -/

/-- The Key Store's answer to a hold asked for: granted, refused naming the state found, or refused with SHUTDOWN
(R10, R26). -/
inductive HoldAnswer where
  | granted
  | refused (found : SlotState)
  | shutdown
deriving DecidableEq, Repr

/-- A hold on slot `i` asked for by the session on port `p`: granted on an ACTIVE slot, refused otherwise and
while a zeroization runs, naming the state found (R10, R19), and refused with SHUTDOWN after a power-fail warning
(R26). The session has the hold in its list once it is granted. -/
def State.takeHold (s : State) (p : PortNo) (i : SlotNo) : HoldAnswer × State :=
  if s.isShutdown then (.shutdown, s)
  else if s.keys.zeroizing then (.refused (s.slot i).state, s)
  else
    let s := s.readSlot i [.identity]
    if (s.slot i).state = .active then
      let s := s.updSlot i (fun x => { x with holders := x.holders + 1 })
      (.granted, s.updSession p (fun x => { x with slotHolds := x.slotHolds ++ [i] }))
    else (.refused (s.slot i).state, s)

/-- One hold of the session on port `p` dropped: the slot's state group is read, its holders count falls by
one in whatever state it is (R6, R11). -/
def State.dropHold (p : PortNo) (s : State) (i : SlotNo) : State :=
  let s := s.readSlot i []
  let s := s.updSlot i (fun x => { x with holders := x.holders - 1 })
  s.updSession p (fun x => { x with slotHolds := x.slotHolds.erase i })

/-- Every hold of the session on port `p` dropped (R11). -/
def State.dropHolds (s : State) (p : PortNo) : State :=
  (((s.session? p).map (·.slotHolds)).getD []).foldl (State.dropHold p) s

/-! ## Device numbers (R14, R15) -/

/-- The answer to an allocation: the key set number and device number, or a reason (R14, R15). -/
inductive Allocation where
  | taken (keySet device : Nat)
  | exhausted
  | noRange
  | notActive
  | shutdown
deriving DecidableEq, Repr

/-- A range record after the number `next` has been given (R14). -/
def RangeRecord.advance (r : RangeRecord) : RangeRecord :=
  let r' := { r with next := r.next + 1 }
  { r' with warned := r.warned || decide (r'.remaining ≤ r.warn) }

/-- RANGE-LOW is due: the remaining count is at or under the warning level while warned is clear (R13, R14). -/
def RangeRecord.lowDue (r : RangeRecord) : Bool := !r.warned && decide (r.remaining ≤ r.warn)

/-- A device number allocated from root slot `i`, or refused: SHUTDOWN after a power-fail warning (R26), else
NOT-ACTIVE, NO-RANGE or EXHAUSTED (R14, R15). -/
def State.allocate (s : State) (i : SlotNo) : Allocation × State :=
  if s.isShutdown then (.shutdown, s)
  else if s.keys.zeroizing then (.notActive, s)
  else
    let s := s.readSlot i [.range]
    let x := s.slot i
    if x.state ≠ .active then (.notActive, s)
    else
      match x.range with
      | none => (.noRange, s)
      | some r =>
        if r.remaining = 0 then (.exhausted, s)
        else
          let r' := { r with next := r.next + 1 }
          let s := s.updSlot i (fun x => { x with range := some r.advance })
          (.taken r.keySet r.next,
            (s.raiseWhen r'.lowDue .rangeLow).raiseWhen (r'.remaining == 0) .rangeExhausted)

/-! ## Check values for records -/

/-- A slot's check value as a CUSTODY record writes it: absent, present or unreadable (R207). -/
def Slot.recordCheck (x : Slot) : List Byte := readable x.checkLost 3 x.check

end Sys2Proof.Machine
end

