-- ==== Sys2Proof/Machine/Orders.lean ====
section
/-! DEFINITION. The Order Table's operations: dispatch of units, waiting lists, unit ends (R99 to R101, R111 to
R118). -/

namespace Sys2Proof.Machine

/-- The order may hand out a unit of profile `p` (R111). -/
def Order.eligible (o : Order) (p : Fin 16) : Bool :=
  o.profile == p && (o.state == .queued || o.state == .running) && 0 < o.remaining

/-- The order still takes unit ends: it is neither DONE nor ABORTED (R100). -/
def Order.isOpen (o : Order) : Bool := o.state != .done && o.state != .aborted

/-- Of two orders the one placed earlier. -/
def olderOrder (best : Option Order) (o : Order) : Option Order :=
  match best with
  | none => some o
  | some b => if o.placement < b.placement then some o else some b

/-- The oldest eligible order of profile `p` (R111). -/
def State.oldestEligible? (s : State) (p : Fin 16) : Option Order :=
  (s.orders.orders.filter (fun o => o.eligible p)).foldl olderOrder none

/-- A unit handed out: remaining falls and in_progress rises by one, the port joins the unit holders, started is
set, QUEUED becomes RUNNING (R111). -/
def Order.handUnit (o : Order) (p : PortNo) : Order :=
  { o with
    remaining := o.remaining - 1
    inProgress := o.inProgress + 1
    unitHolders := o.unitHolders ++ [p]
    started := true
    state := if o.state = .queued then .running else o.state }

/-- A unit of order `n` handed to the session on port `q`, which is told (R111, R145). -/
def State.takeUnit (s : State) (n : Nat) (q : PortNo) : State :=
  ((s.updOrder n (·.handUnit q)).updSession q
    (fun x => { x with unitHeld := true, order := some n, waiting := false })).tell (.unitHanded q)

/-- The port at the head of a waiting list served, if an order of its profile is eligible (R113). -/
def State.serveOne (p : Fin 16) (s : State) (q : PortNo) : State :=
  match s.oldestEligible? p with
  | some o => (s.setWaiting p ((s.waitingList p).erase q)).takeUnit o.number q
  | none => s

/-- The waiting list of profile `p` served from its head while an order of `p` is eligible (R113). -/
def State.serveProfile (s : State) (p : Fin 16) : State := (s.waitingList p).foldl (State.serveOne p) s

/-- A port leaves the waiting lists (R114). -/
def State.leaveWaiting (s : State) (q : PortNo) : State :=
  { s with orders := { s.orders with waiting := Bank.mapAll (fun l => l.erase q) s.orders.waiting } }

/-- The order finished by the test of R100. -/
def Order.finished (o : Order) : Order :=
  { o with state := if o.abortRequested then .aborted else .done, hold := none }

/-- The test of R100: an order with nothing remaining and nothing in progress is DONE or ABORTED. -/
def Order.isFinished (o : Order) : Bool := o.isOpen && o.remaining + o.inProgress == 0

/-- The test of R100 made on order `n`: it finishes and ORDER-DONE is raised. -/
def State.testFinished (s : State) (n : Nat) : State :=
  match s.order? n with
  | some o => if o.isFinished then (s.updOrder n Order.finished).raiseGlobal .orderDone else s
  | none => s

/-- A hold called for by a unit end: a RUNNING order is held and ORDER-HELD raised; any other keeps its state
(R101). -/
def State.callHold (s : State) (n : Nat) (why : HoldReason) : State :=
  match s.order? n with
  | some o =>
    if o.state = .running then
      (s.updOrder n (fun o => { o with state := .held, hold := some why })).raiseGlobal .orderHeld
    else s
  | none => s

/-- A hold called for, or none. -/
def State.callHold? (s : State) (n : Nat) (why : Option HoldReason) : State :=
  match why with
  | some r => s.callHold n r
  | none => s

/-- The unit of port `q` leaves the unit holders. -/
def Order.dropUnit (o : Order) (q : PortNo) : Order :=
  { o with inProgress := o.inProgress - 1, unitHolders := o.unitHolders.erase q }

/-- The waiting list of the order's profile served (R113). -/
def State.serveOrder (s : State) (n : Nat) : State :=
  match s.order? n with
  | some o => if o.eligible o.profile then s.serveProfile o.profile else s
  | none => s

/-- The end of a unit of order `n` that port `q` holds: `k` follows with the order. Only a port of the unit holders
has a unit to end (R99); of any other nothing ends, which no run asks for (log entry 1). -/
def State.unitEnd (s : State) (n : Nat) (q : PortNo) (k : Order → State) : State :=
  match s.order? n with
  | some o => if q ∈ o.unitHolders then k o else s
  | none => s

/-- A returned unit as it comes back: to remaining, or given up once an abort is requested (R115). -/
def Order.takeBack (o : Order) (q : PortNo) : Order :=
  if o.abortRequested then { o.dropUnit q with abandoned := o.abandoned + 1 }
  else { o.dropUnit q with remaining := o.remaining + 1 }

/-- A returned unit (R115). -/
def State.unitReturned (s : State) (n : Nat) (q : PortNo) (why : Option HoldReason) : State :=
  s.unitEnd n q (fun o =>
    let s := ((s.updOrder n (·.takeBack q)).callHold? n why).testFinished n
    if o.abortRequested then s else s.serveOrder n)

/-- A completed unit (R116). -/
def State.unitCompleted (s : State) (n : Nat) (q : PortNo) : State :=
  s.unitEnd n q (fun _ =>
    (s.updOrder n (fun o => { o.dropUnit q with completed := o.completed + 1 })).testFinished n)

/-- A spoiled unit is made good: no abort is requested and the new spoiled count is within the limit (R117). -/
def Order.madeGood (o : Order) : Bool := !o.abortRequested && o.spoiled + 1 ≤ o.spoilLimit

/-- A spoiled unit (R117). -/
def State.unitSpoiled (s : State) (n : Nat) (q : PortNo) : State :=
  s.unitEnd n q (fun o =>
    if o.madeGood then
      ((s.updOrder n (fun o => { o.dropUnit q with spoiled := o.spoiled + 1, remaining := o.remaining + 1 })).testFinished
        n).serveOrder n
    else
      let s := s.updOrder n (fun o => { o.dropUnit q with spoiled := o.spoiled + 1, abandoned := o.abandoned + 1 })
      (if o.abortRequested then s else s.callHold n .spoilLimit).testFinished n)

/-- Every open order held for a zeroization; ORDER-HELD is raised when there is one (R118). -/
def State.holdZeroized (s : State) : State :=
  if s.orders.orders.any Order.isOpen then
    State.raiseGlobal { s with orders := { s.orders with
      orders := s.orders.orders.map (fun o =>
        if o.isOpen then { o with state := .held, hold := some .zeroized } else o) } } .orderHeld
  else s

/-- How many orders in the table name profile `p` (R110). -/
def State.ordersNaming (s : State) (p : Fin 16) : Nat := (s.orders.orders.filter (fun o => o.profile == p)).length

end Sys2Proof.Machine
end

