-- ==== Sys2Proof/Machine/Session.lean ====
section
/-! DEFINITION. The injection session: its frames, its jobs, its phases from greeting to closing, its ends and
what interrupts it (chapter 8, with R124 to R130, R134, R137). -/

namespace Sys2Proof.Machine

/-! ## Frames (R124 to R126, R143) -/

/-- The number the next frame that expects an answer has (R143). -/
def Session.nextSeq (x : Session) : Nat := if x.seq = 255 then 1 else x.seq + 1

/-- Characters put on the line of port `p`. -/
def State.transmit (s : State) (p : PortNo) (chars : List Byte) : State :=
  s.updPort p (fun q => { q with sent := q.sent ++ [chars] })

/-- A new frame that expects an answer: it carries the sequence moved on by one, the retry count is 0, and the
wait runs for the response timeout in force (R124 to R126, R143). -/
def State.sendAwaiting (s : State) (p : PortNo) (kind : FrameType) (payload : List Byte) : State :=
  match s.session? p with
  | none => s
  | some x =>
    let chars := (s.port p).settings.frameChars (BitVec.ofNat 8 kind.code) (BitVec.ofNat 8 x.nextSeq) payload
    let s := s.transmit p chars
    s.updSession p (fun x => { x with
      seq := x.nextSeq, retry := 0, idleFrom := none
      awaited := some ⟨kind, x.nextSeq, chars, (s.port p).timeoutInForce⟩ })

/-- A frame that expects no answer, REFUSE or CLOSE: it carries the next number and does not take it (R143). -/
def State.sendLast (s : State) (p : PortNo) (kind : FrameType) (payload : List Byte) : State :=
  match s.session? p with
  | none => s
  | some x => s.transmit p
      ((s.port p).settings.frameChars (BitVec.ofNat 8 kind.code) (BitVec.ofNat 8 x.nextSeq) payload)

/-- The frame awaiting its answer sent again with the same bytes: the retry count rises, and the new wait is as
long as the timeout then in force (R125, R126). -/
def State.resend (s : State) (p : PortNo) : State :=
  match s.session? p with
  | none => s
  | some x =>
    match x.awaited with
    | none => s
    | some a =>
      (s.transmit p a.bytes).updSession p (fun x => { x with
        retry := x.retry + 1
        awaited := some { a with waitMs := (s.port p).timeoutInForce } })

/-- An awaited answer taken: the wait ends and the idle time starts at 0 (R125, R143). -/
def State.answerTaken (s : State) (p : PortNo) : State :=
  s.updSession p (fun x => { x with awaited := none, idleFrom := some s.now })

/-! ## The end of a session (R130, R157) -/

/-- What ended a session, as far as the port's next state depends on it (R130). -/
inductive EndCause where
  | natural | retired | reset
deriving DecidableEq, Repr

/-- The state a port takes after PORT.RESET (R137). -/
def PortState.afterReset : PortState → PortState
  | .retired => .retired
  | .readmitting => .retired
  | .off => .off
  | _ => .dormant

/-- The state a port takes when its session ends (R130, R134, R137). -/
def PortState.afterSession (t : PortState) : EndCause → PortState
  | .retired => .retired
  | .reset => t.afterReset
  | .natural => if t = .pausing then .paused else .cooldown

/-- The check values of the items loaded, in item order (R157). -/
def Session.loadedChecks (x : Session) : List (List Byte) :=
  x.items.filterMap (fun i => if i.state = .loaded then i.check else none)

/-- The check values of all items, in item order (R156). -/
def Session.allChecks (x : Session) : List (List Byte) := x.items.filterMap (·.check)

/-- The settlement of a session that ends after its allocation and has not settled: attached to its ISSUE append
while that is in the write queue, else an entry of its own naming the record, if there is one (R157, R171). -/
def State.settleSpoiled (s : State) (p : PortNo) (x : Session) (why : Reason) : State :=
  let t : Settlement := ⟨.spoiled, why, s.stamp, x.loadedChecks⟩
  match x.record with
  | some _ => s.enqueue (.settle ⟨x.record, some p, t, false, none⟩)
  | none =>
    if s.journal.issueQueued p then s.updJournal (·.attach p t)
    else s.enqueue (.settle ⟨none, some p, t, false, none⟩)

/-- The unit end a session reports (R115 to R117): completed, spoiled or returned by the outcome; a completed
unit whose settlement program is still to end is reported then (R156). -/
def State.reportUnit (s : State) (p : PortNo) (x : Session) (o : Ending) (why : Option HoldReason)
    (later : Bool) : State :=
  match x.unitHeld, x.order with
  | true, some n =>
    match o with
    | .complete => if later then s else s.unitCompleted n p
    | .spoiled => s.unitSpoiled n p
    | _ => s.unitReturned n p why
  | _, _ => s

/-- The session of port `p` ends: the steps of R157 after its settlement, in their order, then R130. -/
def State.closeSession (s : State) (p : PortNo) (o : Ending) (r : Reason) (why : Option HoldReason) (later : Bool)
    (cause : EndCause) : State :=
  match s.session? p with
  | none => s
  | some x =>
    let s := s.leaveWaiters p
    let s := if x.placeAccepted then
        (s.updSession p (fun x => { x with placeAccepted := false })).giveBack (.session p)
      else s
    let s := s.leaveWaiting p
    let s := s.dropHolds p
    let s := match x.profileHeld, x.profile with
      | true, some c => s.updProfile c.number (fun f => { f with holders := f.holders - 1 })
      | _, _ => s
    let s := s.reportUnit p x o why later
    let s := if o = .refused then s.sendLast p .refuse (be 1 r.code) else s.sendLast p .close (endingBytes (o, r))
    let s := s.raisePort .sessionEnd p
    s.updPort p (fun q => { q with
      keyArea := KeyArea.blank
      lastEnd := some (o, r)
      state := q.state.afterSession cause
      timerFrom := s.now
      session := none })

/-- The session of port `p` ends with an outcome and a reason (R157): they are written, an answer awaited is
abandoned, the engine job removed or marked, and a session with a device number that has not settled hands
over its settlement as SPOILED. `settled` says that the settlement has been dealt with under R156. -/
def State.endSession (s : State) (p : PortNo) (o : Ending) (r : Reason) (why : Option HoldReason) (settled later : Bool)
    (cause : EndCause) : State :=
  match s.session? p with
  | none => s
  | some x =>
    let s := s.updSession p (fun x => { x with outcome := some (o, r), awaited := none })
    let s := s.updEngine (·.withdraw (portRequester p) (fun _ => true))
    let s := if x.device.isSome && !settled then s.settleSpoiled p x r else s
    s.closeSession p o r why later cause

/-- A session ends WITHDRAWN, REFUSED or UNSERVED by itself, before any number is allocated. -/
def State.endUnnumbered (s : State) (p : PortNo) (o : Ending) (r : Reason) (why : Option HoldReason) : State :=
  s.endSession p o r why false false .natural

/-- A session with a number ends SPOILED by itself. -/
def State.endSpoiled (s : State) (p : PortNo) (r : Reason) : State := s.endSession p .spoiled r none false false .natural

/-- A session in CLOSING ends COMPLETE and reports its completed unit (R156). -/
def State.endComplete (s : State) (p : PortNo) (cause : EndCause) : State :=
  s.endSession p .complete .none none true false cause

/-- A session in SETTLING is ended from outside: COMPLETE when the program of its settlement has begun, its unit
then reported when the program ends; else its settlement in the write queue is changed to SPOILED (R156). Until that
program ends the unit stays in progress, and a new session on the port may take a unit beside it: the port then stands
twice in unit holders, where R99 has the units in progress be those of sessions that hold one (log entry 28). -/
def State.interruptSettling (s : State) (p : PortNo) (r : Reason) (cause : EndCause) : State :=
  let order := (s.session? p).bind (·.order)
  if s.journal.settleBegun p then
    let s := s.updJournal (·.updSettle p (fun e => { e with awaited := false, unitDue := order }))
    s.endSession p .complete .none none true true cause
  else
    let s := s.updJournal (·.updSettle p (fun e =>
      { e with awaited := false, content := { e.content with outcome := .spoiled, reason := r } }))
    s.endSession p .spoiled r none true false cause

/-- A session is ended from outside for a reason, by how far it has come (R137, R156, R158 to R161). -/
def State.interrupt (s : State) (p : PortNo) (r : Reason) (cause : EndCause) : State :=
  match s.session? p with
  | none => s
  | some x =>
    match x.phase with
    | .closing => s.endComplete p cause
    | .settling => s.interruptSettling p r cause
    | _ =>
      if x.device.isSome then s.endSession p .spoiled r none false false cause
      else s.endSession p .withdrawn r none false false cause

/-! ## The line error score (R127, R128, R134) -/

/-- The kinds of line error (R123, R125). -/
inductive LineError where
  | check | cut | length | timeout
deriving DecidableEq, Repr

/-- The count of a kind of line error raised by one (R127). -/
def Port.countError (q : Port) : LineError → Port
  | .check => { q with checkErrors := saturate 65535 (q.checkErrors + 1) }
  | .cut => { q with cutErrors := saturate 65535 (q.cutErrors + 1) }
  | .length => { q with lengthErrors := saturate 65535 (q.lengthErrors + 1) }
  | .timeout => { q with timeoutErrors := saturate 65535 (q.timeoutErrors + 1) }

/-- A line error counted and scored: 8 added, up to 256 (R127). -/
def Port.scoreError (q : Port) (k : LineError) : Port := { q.countError k with score := saturate 256 (q.score + 8) }

/-- A good frame taken: 1 subtracted, not below 0 (R127). -/
def Port.scoreGood (q : Port) : Port := { q with score := q.score - 1 }

/-- The port is retired: PORT-RETIRED is raised, and a session ends with reason LINE (R134). -/
def State.retire (s : State) (p : PortNo) : State :=
  let s := s.raisePort .retired p
  match s.session? p with
  | some _ => s.interrupt p .line .retired
  | none => s.updPort p (fun q => { q with state := .retired })

/-- A wait for an answer has failed: the frame is sent again, or the session ends with reason LINE at the retry
limit (R126, R158). -/
def State.failWait (s : State) (p : PortNo) : State :=
  match s.session? p with
  | none => s
  | some x =>
    match x.awaited with
    | none => s
    | some _ =>
      if (s.port p).settings.retryLimit ≤ x.retry then s.interrupt p .line .natural else s.resend p

/-- A line error on port `p`: scored, with PORT-WARNING when the score rises to 96; a score of 256 retires the
port, and otherwise a wait for an answer has failed (R125 to R128, R134). -/
def State.lineError (s : State) (p : PortNo) (k : LineError) : State :=
  let before := (s.port p).score
  let s := s.updPort p (·.scoreError k)
  let after := (s.port p).score
  let s := if before < 96 && 96 ≤ after then s.raisePort .warning p else s
  if 256 ≤ after then s.retire p else s.failWait p

/-! ## Greeting (R96, R144) -/

/-- The identity of a terminal: maker code and model code as one 32-bit number (R91). -/
def Terminal.identity (t : Terminal) : BitVec 32 := BitVec.ofNat 32 (t.maker * 65536 + t.model)

/-- The terminal matches the entry's contents: identity under the mask, and serial prefix (R91). -/
def Entry.accepts (e : Entry) (t : Terminal) : Bool :=
  t.identity &&& e.mask == e.matchValue &&& e.mask && e.serialStart == t.serial.take e.serialStart.length

/-- The recognition scan over entries `is` in order: the number of the first enabled entry that matches, and
the state after the reads it made (R92). -/
def State.scan (t : Terminal) : List (Fin 32) → State → Option (Fin 32) × State
  | [], s => (none, s)
  | i :: rest, s =>
    let s := s.readEntry i false
    let s := if (s.entry i).enabled then s.readEntry i true else s
    if (s.entry i).enabled && (s.entry i).accepts t then (some i, s) else State.scan t rest s

/-- The terminal can hold every item: its kinds and its highest key index (R96). -/
def ProfileData.fits (d : ProfileData) (t : Terminal) : Bool :=
  d.items.all (fun i => t.can i.kind && decide (i.index ≤ t.highestIndex))

/-- A session just created by a HELLO (R142). -/
def Session.created (t : Terminal) : Session where
  phase := .greeting
  terminal := t
  entry := none
  profile := none
  order := none
  unitHeld := false
  waiting := false
  placeAccepted := false
  device := none
  label := none
  record := none
  items := []
  seq := 0
  retry := 0
  idleFrom := none
  outcome := none
  slotHolds := []
  profileHeld := false
  transportKind := none
  unprogrammed := false
  awaited := none
  waitFrom := 0

/-- An item entry in OPEN. -/
def ItemEntry.opened : ItemEntry := ⟨.opened, none, none⟩

/-- The greeting of the session on port `p`: the steps of R96, then WELCOME or a REFUSED end (R144). -/
def State.greet (s : State) (p : PortNo) (t : Terminal) : State :=
  if t.serial = [] then s.endUnnumbered p .refused .identity none
  else
    match State.scan t (List.finRange 32) s with
    | (none, s) => s.endUnnumbered p .refused .unknown none
    | (some i, s) =>
      match below 16 (s.entry i).target with
      | none => s.endUnnumbered p .refused .noProfile none
      | some n =>
        let s := s.readProfile n
        match (s.profile n).state, (s.profile n).contents with
        | .defined, some d =>
          let s := s.updProfile n (fun f => { f with holders := f.holders + 1 })
          let s := s.updSession p (fun x => { x with
            entry := some i
            profile := some ⟨n, d⟩
            profileHeld := true
            items := d.items.map (fun _ => ItemEntry.opened) })
          if !d.fits t then s.endUnnumbered p .refused .capability none
          else if d.freshOnly && !t.fresh then s.endUnnumbered p .refused .notFresh none
          else s.sendAwaiting p .welcome (be 1 n.val ++ be 1 d.items.length)
        | _, _ => s.endUnnumbered p .refused .noProfile none

/-! ## Assigning (R145, R146) -/

/-- The session on port `p` enters ASSIGNING and asks for a unit: it is handed one, joins its profile's waiting
list, or ends UNSERVED (R111, R112, R145). -/
def State.askUnit (s : State) (p : PortNo) : State :=
  let s := s.updSession p (fun x => { x with phase := .assigning })
  match (s.session? p).bind (·.profile) with
  | none => s
  | some c =>
    match s.oldestEligible? c.number with
    | some o => s.takeUnit o.number p
    | none =>
      if 0 < (s.port p).settings.waitLimit && (s.port p).state == .inSession then
        (s.setWaiting c.number (s.waitingList c.number ++ [p])).updSession p
          (fun x => { x with waiting := true, waitFrom := s.now })
      else s.endUnnumbered p .unserved .none none

/-! ## Allocating (R147 to R150) -/

/-- The slots a profile names, with what each must be: the transport slot, the root slot, then the FIXED slot of
each FIXED item (R89, R147). -/
def ProfileData.needs (d : ProfileData) : List (SlotNo × Role × Option KeyKind) :=
  (d.transport, .transport, none) :: (d.root, .root, none)
    :: d.items.filterMap (fun i => match i.source with | .fixed n => some (n, .fixed, some i.kind) | .derived => none)

/-- The role and kind reported with a grant are the profile's (R89). -/
def Slot.serves (x : Slot) (role : Role) (kind : Option KeyKind) : Bool :=
  x.role == some role && (kind.isNone || x.kind == kind)

/-- The holds taken in their order; a slot named more than once is held once. Answers whether every hold was
granted and every comparison passed; the state that a refusal names makes no difference (R10, R147). -/
def State.takeHolds (p : PortNo) : List (SlotNo × Role × Option KeyKind) → State → Bool × State
  | [], s => (true, s)
  | (i, role, kind) :: rest, s =>
    let held := ((s.session? p).map (fun x => x.slotHolds.contains i)).getD false
    let (answer, s) := if held then (.granted, s) else s.takeHold p i
    if answer == .granted && (s.slot i).serves role kind then State.takeHolds p rest s else (false, s)

/-- The allocation of the session on port `p`, whose place is accepted: with a number taken the issue label is
formed and the ISSUE record handed to the write queue; a refusal ends the session, but for SHUTDOWN, which is not
acted on (R149, R162). -/
def State.allocateFor (s : State) (p : PortNo) : State :=
  match (s.session? p).bind (·.profile) with
  | none => s
  | some c =>
    match s.allocate c.contents.root with
    | (.taken keySet device, s) =>
      match s.session? p with
      | none => s
      | some x =>
        let part : IssuePart := ⟨p, x.order.getD 0, c.number, keySet, device, x.terminal.maker, x.terminal.model,
          x.terminal.firmware, x.terminal.serial, s.stamp⟩
        (s.updSession p (fun x => { x with
          device := some device, label := some (issueLabel keySet device), placeAccepted := false })).enqueue
          (.issue part none)
    | (.shutdown, s) => s
    | (.notActive, s) => s.endUnnumbered p .withdrawn .keyUnavailable (some .keyUnavailable)
    | (_, s) => s.endUnnumbered p .withdrawn .range (some .rangeExhausted)

/-- The session on port `p`, with its holds taken, asks for a journal place: it goes on to its number, begins the
journal wait, or ends WITHDRAWN(NO-JOURNAL) (R148). -/
def State.askPlace (s : State) (p : PortNo) : State :=
  match s.askSession p with
  | (.accepted, s) => (s.updSession p (fun x => { x with placeAccepted := true })).allocateFor p
  | (.waits, s) => s.updSession p (fun x => { x with waitFrom := s.now })
  | (.inFault, s) => s.endUnnumbered p .withdrawn .noJournal none

/-- The session on port `p` has been handed a unit: the dispatch read, then its holds and its place (R97, R146,
R147). -/
def State.unitTaken (s : State) (p : PortNo) : State :=
  match s.session? p with
  | none => s
  | some x =>
    match x.phase, x.unitHeld, x.profile with
    | .assigning, true, some c =>
      let s := s.readProfile c.number
      if (s.profile c.number).state ≠ .defined then
        s.endUnnumbered p .withdrawn .keyUnavailable (some .profileUnavailable)
      else
        let s := s.updSession p (fun x => { x with phase := .allocating })
        match State.takeHolds p c.contents.needs s with
        | (true, s) =>
          (s.updSession p (fun x => { x with transportKind := (s.slot c.contents.transport).kind })).askPlace p
        | (false, s) => s.endUnnumbered p .withdrawn .keyUnavailable (some .keyUnavailable)
    | _, _, _ => s

/-- The Journal has accepted a place for the waiting session on port `p` (R148, R169). -/
def State.placeTaken (s : State) (p : PortNo) : State :=
  match s.session? p with
  | some x => if x.phase = .allocating && x.placeAccepted && x.device.isNone then s.allocateFor p else s
  | none => s

/-- The Journal has entered FAULT during the journal wait of port `p` (R148, R169). -/
def State.journalFaultTold (s : State) (p : PortNo) : State :=
  match s.session? p with
  | some x =>
    if x.phase = .allocating && !x.placeAccepted && x.device.isNone then s.endUnnumbered p .withdrawn .noJournal none
    else s
  | none => s

/-- An abort notice reaches the session on port `p`: without an allocation it ends, with one it runs on
(R151). -/
def State.abortNoticed (s : State) (p : PortNo) : State :=
  match s.session? p with
  | none => s
  | some x =>
    let aborted := (x.order.bind s.order?).map (·.abortRequested) = some true
    if x.unitHeld && x.device.isNone && aborted then s.endUnnumbered p .withdrawn .orderAborted none else s

/-! ## Deriving (R77, R152) -/

/-- The index of the first item that is not yet as far as `done` says. -/
def Session.firstItem (x : Session) (done : ItemState → Bool) : Option Nat := x.items.findIdx? (fun i => !done i.state)

/-- The item's load block is held, or has been. -/
def ItemState.isWrapped : ItemState → Bool
  | .wrapped => true
  | .loaded => true
  | _ => false

/-- The key source of an item's CHECK and WRAP (R77). -/
def Item.keySource (i : Item) (n : Nat) : KeySource :=
  match i.source with
  | .fixed slot => .slot slot
  | .derived => .position (itemPosition n)

/-- The next job of the session on port `p`: WK, AK, then for each item its DERIVE if it is DERIVED, its CHECK
and its WRAP (R77, R152). -/
def Session.nextJob (x : Session) (p : PortNo) (area : KeyArea) : Option Job :=
  match x.profile with
  | none => none
  | some c =>
    let kind := x.transportKind.getD .a16
    let transport (usage : Nat) (dest : Position) : Job :=
      ⟨portRequester p, .slot c.contents.transport,
        .derive (transportBlocks kind usage x.terminal.serial) kind dest⟩
    if area.wk.isNone then some (transport wkUsage .wk)
    else if area.ak.isNone then some (transport akUsage .ak)
    else
      match x.firstItem ItemState.isWrapped with
      | none => none
      | some n =>
        match c.contents.items[n]?, x.items[n]? with
        | some i, some e =>
          match e.state, i.source with
          | .opened, .derived => some ⟨portRequester p, .slot c.contents.root,
              .derive (derivationBlocks i (x.label.getD [])) i.kind (itemPosition n)⟩
          | .checked, _ => some ⟨portRequester p, i.keySource n, .wrap (loadHeader i (n + 1)) (e.check.getD [])⟩
          | _, _ => some ⟨portRequester p, i.keySource n, .check⟩
        | _, _ => none

/-! ## Loading and committing (R154, R155) -/

/-- Item `n` of the session changed by `f`. -/
def Session.updItem (x : Session) (n : Nat) (f : ItemEntry → ItemEntry) : Session := { x with items := x.items.modify n f }

/-- The LOAD of the next item that is not LOADED, or COMMIT when all are (R154, R155). -/
def State.sendLoad (s : State) (p : PortNo) : State :=
  match s.session? p with
  | none => s
  | some x =>
    match x.firstItem (fun t => t == .loaded) with
    | some n => s.sendAwaiting p .load (x.label.getD [] ++ ((x.items[n]?).bind (·.block)).getD [])
    | none =>
      (s.updSession p (fun x => { x with phase := .committing })).sendAwaiting p .commit
        (x.label.getD [] ++ be 1 x.items.length)

/-- The session on port `p` enters LOADING and sends its first LOAD (R154). -/
def State.enterLoading (s : State) (p : PortNo) : State :=
  (s.updSession p (fun x => { x with phase := .loading })).sendLoad p

/-- The session on port `p` submits its next job, or with every item WRAPPED enters LOADING, unless a WAIT awaits its
READY: then it stays in DERIVING until that has been taken (R143, R152, R154, section 8.10). -/
def State.goDeriving (s : State) (p : PortNo) : State :=
  match s.session? p with
  | none => s
  | some x =>
    match x.nextJob p (s.port p).keyArea with
    | some j => s.updEngine (·.submit j)
    | none => if x.awaited.isSome then s else s.enterLoading p

/-- The session on port `p` learns that its ISSUE record has been programmed and enters DERIVING (R150). -/
def State.issueReported (s : State) (p : PortNo) : State :=
  match s.session? p with
  | some x =>
    if x.phase = .allocating && x.record.isSome then
      (s.updSession p (fun x => { x with phase := .deriving })).goDeriving p
    else s
  | none => s

/-- A job of the session on port `p` has ended DONE: its result goes to its destination, the item moves on, and
the next job follows (R47 to R49, R152). -/
def State.sessionJobDone (s : State) (p : PortNo) (work : JobWork) (result : List Byte) : State :=
  match s.session? p with
  | none => s
  | some x =>
    let n := (x.firstItem ItemState.isWrapped).getD 0
    let s := match work with
      | .derive _ kind dest =>
        let s := s.updPort p (fun q => { q with keyArea := q.keyArea.set dest ⟨kind, result⟩ })
        if dest = Position.wk || dest = Position.ak then s
        else s.updSession p (·.updItem n (fun e => { e with state := .keyed }))
      | .check => s.updSession p (·.updItem n (fun e => { e with state := .checked, check := some result }))
      | .wrap _ _ => s.updSession p (·.updItem n (fun e => { e with state := .wrapped, block := some result }))
    s.goDeriving p

/-! ## Settling (R156) -/

/-- The session on port `p` enters SETTLING and hands over its COMPLETE settlement (R156). -/
def State.enterSettling (s : State) (p : PortNo) : State :=
  match s.session? p with
  | none => s
  | some x =>
    (s.updSession p (fun x => { x with phase := .settling })).enqueue
      (.settle ⟨x.record, some p, ⟨.complete, .none, s.stamp, x.allChecks⟩, true, none⟩)

/-- The program of the settlement of the session on port `p` has ended: it enters CLOSING and ends COMPLETE, its
CLOSE waiting for a READY still awaited (R143, R156). -/
def State.settlementReported (s : State) (p : PortNo) : State :=
  match s.session? p with
  | none => s
  | some x =>
    if x.phase = .settling then
      let s := s.updSession p (fun x => { x with phase := .closing })
      if x.awaited.isSome then s else s.endComplete p .natural
    else s

end Sys2Proof.Machine
end

