-- ==== Sys2Proof/Machine/React.lean ====
section
/-! DEFINITION. What follows within a step: consequences the blocks told one another, components taken up, jobs
granted, journal requests that waited, the next flash operation (log entry 5); and the end of a job. -/

namespace Sys2Proof.Machine

/-! ## SLOT.VERIFY (R22) -/

/-- The three verdicts of SLOT.VERIFY (R22). -/
inductive Verdict where
  | isMatch | isMismatch | unreadable
deriving DecidableEq, Repr

/-- The verdict's code (R200). -/
def Verdict.code : Verdict → Nat
  | .isMatch => 1
  | .isMismatch => 2
  | .unreadable => 3

/-- The result of SLOT.VERIFY: the verdict, the stored and the computed check value (R22). That the stored one comes first
is the model's choice, R22 naming no order of the two (log entry 19). -/
def verdictBytes (v : Verdict) (stored computed : Option (List Byte)) : List Byte :=
  be 1 v.code ++ present 3 stored ++ present 3 computed

/-- The SLOT.VERIFY in progress is over. -/
def State.verifyOver (s : State) : State := { s with keys := { s.keys with verify := none } }

/-- A mismatch makes the slot DAMAGED, if it is not already, and raises KEY-DAMAGED on that change (R22). -/
def State.mismatch (s : State) (i : SlotNo) : State :=
  if (s.slot i).state = .damaged then s
  else (s.updSlot i (fun x => { x with state := .damaged, mem := { x.mem with state := GroupMem.clean } })).raiseGlobal
    .keyDamaged

/-- The end of a SLOT.VERIFY job: its verdict and the reply, TAMPERED after a zeroization, or SHUTDOWN with the slot
unchanged (R22). A job that a zeroization has marked and that ends after a power-fail warning is answered SHUTDOWN:
the model's choice, since R22 gives both statuses (log entry 28). -/
def State.verifyEnded (s : State) (o : JobOutcome) : State :=
  match s.keys.verify with
  | none => s
  | some v =>
    let s := s.verifyOver
    if s.isShutdown then s.refuse .shutdown
    else
      match o with
      | .done computed =>
        if v.stored = some computed then s.answer .ok (verdictBytes .isMatch v.stored (some computed))
        else (s.mismatch v.slot).answer .ok (verdictBytes .isMismatch v.stored (some computed))
      | .keyDamaged => s.answer .ok (verdictBytes .unreadable v.stored none)
      | _ => s.refuse .tampered

/-! ## The end of a job (R56 to R59) -/

/-- The outcome of a job delivered to its requester (section 3.5). After a power-fail warning only SLOT.VERIFY
acts on it (R46, R61, R162). -/
def State.deliver (s : State) (j : Job) (o : JobOutcome) : State :=
  if j.isVerify then s.verifyEnded o
  else if s.isShutdown then s
  else
    match requesterPort? j.requester, o with
    | some p, .done result => s.sessionJobDone p j.work result
    | some p, .keyDamaged => s.endSpoiled p .keyDamaged
    | none, .done check => s.custodyJobDone j.source check
    | _, _ => s

/-- The job in flight ends: the engine is idle and the outcome goes to its requester (R56). -/
def State.endJob (s : State) : State :=
  match s.engine.inFlight with
  | none => s
  | some f => (s.updEngine (·.finish f)).deliver f.job f.outcome

/-- A job is granted: its keys are gathered and it is in flight, or it ends at its start (R54, R55, R57). -/
def State.grantJob (s : State) (j : Job) : State :=
  let s := s.updEngine (·.grant j)
  match s.gatherKey j with
  | (.key kind bytes, s) => s.launch j kind bytes
  | (.damaged, s) => (s.updEngine (·.promote j.requester)).deliver j .keyDamaged
  | (.zeroized, s) => (s.updEngine (·.promote j.requester)).deliver j .zeroized

/-! ## Journal requests (R172, R176, R178, R179) -/

/-- A warning level as JRN.STATUS takes it: clamped to 16 to 4096 (R179). -/
def warnTaken (level : Nat) : Nat := max 16 (min 4096 level)

/-- The result of JRN.STATUS; `clamped` says whether the level given was changed (R179, R200). The widths of the counts
that R200 does not list are the model's choice: 1 byte for the segments in each state and the custody places outstanding,
2 for the erased places, the promised count, the PENDING records and the entries of each queue part (log entry 19). -/
def Journal.statusBytes (j : Journal) (clamped : Bool) : List Byte :=
  be 1 j.state.code ++ be 1 j.flash.code
    ++ be 1 (j.countState .erased) ++ be 1 (j.countState .active) ++ be 1 (j.countState .full)
    ++ be 1 (j.countState .erasing) ++ be 1 (j.countState .bad)
    ++ present 1 (j.active?.map (fun i => be 1 i.val))
    ++ be 2 j.erasedPlaces ++ be 2 j.promised ++ be 2 j.freeReported ++ be 2 j.warnLevel
    ++ [boolByte clamped, boolByte j.highNoted]
    ++ be 4 j.newest ++ be 4 j.oldestHeld ++ be 4 j.released.value ++ present 4 (j.oldestPending.map (be 4))
    ++ be 2 j.pendingRecords.length ++ be 2 j.startQueue.length ++ be 2 j.runQueue.length
    ++ counted (fun i : Fin 64 => be 1 i.val) j.eraseList
    ++ counted (fun p : PortNo => be 1 p.val) j.waiters ++ be 1 j.custodyOut ++ be 2 j.programFailures
    ++ be 2 j.eraseFailures

/-- A record as JRN.READ returns it: the read mark and the 80 bytes of its place (R200). -/
def HeldRecord.bytes (r : HeldRecord) : List Byte := r.place.readMark :: r.place.bytes

/-- The result of JRN.READ from `start`, at most `max` records and never more than 12 (R178, R200). -/
def Journal.readBytes (j : Journal) (start max : Nat) : List Byte :=
  let found := j.heldRecords.filter (fun r => start ≤ r.seq)
  let returned := found.take (min 12 max)
  be 4 ((returned.head?.map (·.seq)).getD 0) ++ be 1 returned.length ++ be 4 (found.length - returned.length)
    ++ be 4 j.oldestHeld ++ returned.flatMap HeldRecord.bytes

/-- Released-through after JRN.RELEASE of `through`: the larger of its value and the smaller of `through` and the
oldest PENDING sequence minus one (R176). -/
def Journal.releaseTaken (j : Journal) (through : Nat) : Nat :=
  max j.released.value (match j.oldestPending with | some q => min through (q - 1) | none => through)

/-- Released-through written, and where it has changed the FULL segments judged for reclaim (R176, R177). -/
def Journal.release (j : Journal) (through : Nat) : Journal :=
  let taken := j.releaseTaken through
  let k : Journal := { j with released := ⟨taken, GroupMem.clean⟩ }
  if taken = j.released.value then k else k.judgeReclaim

/-- Both counters read through the error check: `none` when a rebuild must come first (R5, R182). -/
def State.readCounters (s : State) : Bool × State :=
  let (a, s) := s.readNextSeq
  let (b, s) := s.readReleased
  (a && b, s)

/-- A journal request served (R176, R178, R179); a double error in a counter's word starts a rebuild, for which
the request waits (R182). -/
def State.serveRequest (s : State) (r : JournalRequest) : State :=
  match r with
  | .read start max => s.answer .ok (s.journal.readBytes start max)
  | .status level =>
    match s.readCounters with
    | (false, s) => s.updJournal (fun j => { j with rebuilding := true, request := some r })
    | (true, s) =>
      let s := if level = 0 then s else (s.updJournal (fun j => { j with warnLevel := warnTaken level })).judgeHigh
      s.answer .ok (s.journal.statusBytes (level != 0 && warnTaken level != level))
  | .release through =>
    match s.readCounters with
    | (false, s) => s.updJournal (fun j => { j with rebuilding := true, request := some r })
    | (true, s) =>
      if s.journal.newest < through then s.refuse .badValue
      else
        let s := s.updJournal (·.release through)
        s.answer .ok (be 4 s.journal.released.value ++ present 4 (s.journal.oldestPending.map (be 4)))

/-- A journal request taken: it waits while a rebuild runs, and a read waits for the flash to be IDLE (R172,
R182). -/
def State.takeRequest (s : State) (r : JournalRequest) : State :=
  let reads := match r with | .release _ => false | _ => true
  if s.journal.rebuilding || (reads && s.journal.flash ≠ .idle) then s.updJournal (fun j => { j with request := some r })
  else s.serveRequest r

/-- A waiting journal request served once the flash is IDLE and no rebuild runs (R172, R182). -/
def State.requestNext? (s : State) : Option State :=
  match s.journal.request with
  | none => none
  | some r =>
    if s.journal.flash = .idle && !s.journal.rebuilding then
      some ((s.updJournal (fun j => { j with request := none })).serveRequest r)
    else none

/-! ## Reactions (log entry 5) -/

/-- A consequence taken. -/
def State.takeTask (s : State) (t : Task) : State :=
  match t with
  | .unitHanded p => s.unitTaken p
  | .placeAccepted p => s.placeTaken p
  | .journalFault p => s.journalFaultTold p
  | .abortNotice p => s.abortNoticed p
  | .issueProgrammed p => s.issueReported p

/-- One reaction, if one is due: the oldest consequence, a component taken up, a job granted, a waiting journal
request, the next flash operation. In SHUTDOWN there is none (R190). -/
def State.react? (s : State) : Option State :=
  if s.isShutdown then none
  else
    match s.agenda with
    | t :: ts => some (State.takeTask { s with agenda := ts } t)
    | [] =>
      match s.takeUp? with
      | some s' => some s'
      | none =>
        match s.engine.granted? with
        | some j => some (s.grantJob j)
        | none =>
          match s.requestNext? with
          | some s' => some s'
          | none => s.flashNext?

/-- Reactions until none is due, at most `fuel` of them. -/
def State.settleWith : Nat → State → State
  | 0, s => s
  | fuel + 1, s =>
    match s.react? with
    | none => s
    | some s' => State.settleWith fuel s'

/-- How many reactions a step can have at most in the model (log entry 5). -/
def reactionLimit : Nat := 1024

/-- A step's end: its consequences are taken until none is left. -/
def State.settle (s : State) : State := State.settleWith reactionLimit s

end Sys2Proof.Machine
end

