-- ==== Sys2Proof/Machine/Slots.lean ====
section
/-! DEFINITION. The SLOT requests (R13, R16 to R22). -/

namespace Sys2Proof.Machine

/-- Steps 3 and 4 of R16: the slot number, and no zeroization running. -/
def State.withSlot (s : State) (params : List Byte) (k : SlotNo → State → State) : State :=
  match below 32 (number params 0 1) with
  | none => s.refuse .badValue
  | some i => if s.keys.zeroizing then s.refuse .tampered else k i s

/-- The step at which the window is judged (R34): `k` follows with the window's two custodian numbers. -/
def State.underWindow (s : State) (k : Nat × Nat → State → State) : State :=
  if s.windowOpen then k s.windowPair s else s.refuse .notAuthorized

/-- The step at which the Journal accepts a place for the request's CUSTODY record (R16 step 8). -/
def State.withPlace (s : State) (k : State → State) : State :=
  match s.askCustody 1 with
  | (true, s) => k s
  | (false, s) => s.refuse .journalFull

/-- The groups a request that changes a slot reads beside the state group (R6). -/
def changeGroups : List SlotGroup := [.identity, .check, .range]

/-! ## Reports -/

/-- A slot's entry in SLOT.LIST: role and kind 0 where absent and 0xFF where unreadable, the range present with
remaining 0xFFFFFFFF where unreadable (R17). -/
def Slot.listBytes (x : Slot) (i : SlotNo) : List Byte :=
  let lost := x.identityLost
  be 1 i.val ++ be 1 x.state.code
    ++ (if lost then [0xFF, 0xFF] else be 1 ((x.role.map (·.code)).getD 0) ++ be 1 ((x.kind.map (·.code)).getD 0))
    ++ be 1 x.holders
    ++ (if x.rangeLost then 1 :: be 4 0xFFFFFFFF else present 4 (x.range.map (fun r => be 4 r.remaining)))

/-- SLOT.LIST over slots `is`: each is read, and its entry formed after the read (R17). -/
def State.listSlots : List SlotNo → List Byte → State → State
  | [], out, s => s.answer .ok out
  | i :: is, out, s =>
    let s := s.readSlot i [.identity, .range]
    State.listSlots is (out ++ (s.slot i).listBytes i) s

/-- A slot as SLOT.INFO reports it (R18). -/
def Slot.infoBytes (x : Slot) (i : SlotNo) : List Byte :=
  let lost := x.identityLost
  be 1 i.val ++ be 1 x.state.code
    ++ readable lost 1 (x.role.map (fun r => be 1 r.code)) ++ readable lost 1 (x.kind.map (fun k => be 1 k.code))
    ++ readable lost 8 x.label ++ readable x.checkLost 3 x.check
    ++ readable lost 7 (if x.contributors.isEmpty then none else some (counted Contributor.bytes x.contributors))
    ++ readable lost 5 (x.activation.map Stamp.bytes) ++ be 1 x.holders
    ++ readable x.rangeLost 23 (x.range.map RangeRecord.bytes)

/-- SLOT.LIST (R17). -/
def execSlotList (tag : Byte) (params : List Byte) (s : State) : Host.Outcome State Fault Refusal :=
  .next (s.request 3 1 .bare false tag params (fun s =>
    if s.keys.zeroizing then s.refuse .tampered else s.listSlots (List.finRange 32) [])).settle

/-- SLOT.INFO (R18). -/
def execSlotInfo (tag : Byte) (params : List Byte) (s : State) : Host.Outcome State Fault Refusal :=
  .next (s.request 3 2 (.bytes 1) false tag params (fun s => s.withSlot params (fun i s =>
    let s := s.readSlot i [.identity, .check, .range]
    s.answer .ok ((s.slot i).infoBytes i)))).settle

/-! ## SLOT.VERIFY (R22) -/

/-- The checks and the taking of SLOT.VERIFY: the reply follows when the job ends (R22). -/
def State.slotVerify (i : SlotNo) (s : State) : State :=
  let s := s.readSlot i [.check]
  let x := s.slot i
  if (x.state ≠ .active && x.state ≠ .suspended) || s.engine.held then s.refuse .wrongState
  else if s.engine.busy custodyRequester then s.refuse .inUse
  else
    let s := { s with keys := { s.keys with verify := some ⟨i, x.check⟩ } }
    s.updEngine (·.submit ⟨custodyRequester, .slot i, .check⟩)

/-- SLOT.VERIFY (R22). -/
def execSlotVerify (tag : Byte) (params : List Byte) (s : State) : Host.Outcome State Fault Refusal :=
  .next (s.request 3 3 (.bytes 1) false tag params (fun s => s.withSlot params State.slotVerify)).settle

/-! ## SLOT.SUSPEND and SLOT.RESUME (R19, R20) -/

/-- The slot with its state group rewritten. -/
def Slot.withState (x : Slot) (t : SlotState) : Slot := { x with state := t, mem := { x.mem with state := GroupMem.clean } }

/-- SLOT.SUSPEND from its state check on (R19). -/
def State.slotSuspend (i : SlotNo) (s : State) : State :=
  let s := s.readSlot i changeGroups
  if (s.slot i).state ≠ .active then s.refuse .wrongState
  else s.withPlace (fun s =>
    let fields := be 1 i.val ++ (s.slot i).recordCheck
    ((s.updSlot i (·.withState .suspended)).queueCustody .slotSuspended (0, 0) fields).answer .ok [])

/-- SLOT.SUSPEND (R19). -/
def execSlotSuspend (tag : Byte) (params : List Byte) (s : State) : Host.Outcome State Fault Refusal :=
  .next (s.request 3 4 (.bytes 1) false tag params (fun s => s.withSlot params State.slotSuspend)).settle

/-- SLOT.RESUME from the window on (R20). -/
def State.slotResume (i : SlotNo) (s : State) : State :=
  s.underWindow (fun pair s =>
    let s := s.readSlot i changeGroups
    if (s.slot i).state ≠ .suspended then s.refuse .wrongState
    else s.withPlace (fun s =>
      let fields := be 1 i.val ++ (s.slot i).recordCheck
      ((s.updSlot i (·.withState .active)).queueCustody .slotResumed pair fields).answer .ok []))

/-- SLOT.RESUME (R20). -/
def execSlotResume (tag : Byte) (params : List Byte) (s : State) : Host.Outcome State Fault Refusal :=
  .next (s.request 3 6 (.bytes 1) false tag params (fun s => s.withSlot params State.slotResume)).settle

/-! ## SLOT.RANGE (R13) -/

/-- The parameters of SLOT.RANGE after the slot number (R13). -/
structure RangeRequest where
  keySet : Nat
  first : Nat
  last : Nat
  warn : Nat
deriving DecidableEq, Repr

/-- The parameters read (R13, R200). -/
def RangeRequest.read (params : List Byte) : RangeRequest :=
  ⟨number params 1 4, number params 5 4, number params 9 4, number params 13 2⟩

/-- The values SLOT.RANGE takes (R13). -/
def RangeRequest.ok (r : RangeRequest) : Bool := r.first != 0 && r.first ≤ r.last && r.last ≤ 0xFFFFFFFE

/-- The range record as SLOT.RANGE writes it: next equal to first, warned set when the remaining count is at or
under the warning level (R13). -/
def RangeRequest.record (r : RangeRequest) : RangeRecord :=
  let fresh : RangeRecord := ⟨r.keySet, r.first, r.last, r.first, r.warn, false⟩
  { fresh with warned := decide (fresh.remaining ≤ r.warn) }

/-- The slot carries the key set number, or its range group cannot be read (R13). -/
def Slot.carries (x : Slot) (keySet : Nat) : Bool := x.rangeLost || (x.range.map (·.keySet)) == some keySet

/-- The slots other than `i`. -/
def otherSlots (i : SlotNo) : List SlotNo := (List.finRange 32).filter (fun k => k != i)

/-- SLOT.RANGE from the window on (R13, R16). Of the other 31 slots R13 names the reading of the range groups alone, and R6
no access to them. That the state group of each is read too, as in every access that R6 lists, so that its single errors
are corrected and counted and its double error makes that slot DAMAGED, is the model's choice (log entry 27). -/
def State.slotRange (r : RangeRequest) (i : SlotNo) (s : State) : State :=
  s.underWindow (fun pair s =>
    let s := s.readSlot i changeGroups
    let x := s.slot i
    if (x.state ≠ .active && x.state ≠ .suspended) || x.role ≠ some .root || x.range.isSome then s.refuse .wrongState
    else if !r.ok then s.refuse .badValue
    else
      let s := (otherSlots i).foldl (fun s k => s.readSlot k [.range]) s
      if (otherSlots i).any (fun k => (s.slot k).carries r.keySet) then s.refuse .duplicate
      else s.withPlace (fun s =>
        let rec' := r.record
        let fields := be 1 i.val ++ (s.slot i).recordCheck ++ be 4 r.keySet ++ be 4 r.first ++ be 4 r.last ++ be 2 r.warn
        let s := s.updSlot i (fun x => { x with range := some rec', mem := { x.mem with range := GroupMem.clean } })
        let s := (s.queueCustody .rangeSet pair fields).raiseWhen rec'.warned .rangeLow
        s.answer .ok rec'.bytes))

/-- SLOT.RANGE (R13). -/
def execSlotRange (tag : Byte) (params : List Byte) (s : State) : Host.Outcome State Fault Refusal :=
  .next (s.request 3 5 (.bytes 15) false tag params (fun s =>
    s.withSlot params (State.slotRange (RangeRequest.read params)))).settle

/-! ## SLOT.ERASE (R21) -/

/-- SLOT.ERASE from the window on: the slot is overwritten and EMPTY, the record queued, and an assembly of the
slot fails with CANCELLED (R21). Its SLOT-ERASED is queued before the ASSEMBLY-FAILED and so takes the lower sequence
number: the model's choice, R16, R21 and R42 giving no order of the two (log entry 6). -/
def State.slotErase (i : SlotNo) (s : State) : State :=
  s.underWindow (fun pair s =>
    let s := s.readSlot i changeGroups
    if 0 < (s.slot i).holders then s.refuse .inUse
    else s.withPlace (fun s =>
      let x := s.slot i
      let s := s.updSlot i (fun _ => Slot.blank)
      let s := s.queueCustody .slotErased pair (be 1 i.val ++ be 1 x.state.code ++ x.recordCheck)
      let s := if x.state = .assembling then s.failAssembly .cancelled else s
      s.answer .ok (be 1 x.state.code ++ x.recordCheck)))

/-- SLOT.ERASE (R21). -/
def execSlotErase (tag : Byte) (params : List Byte) (s : State) : Host.Outcome State Fault Refusal :=
  .next (s.request 3 7 (.bytes 1) false tag params (fun s => s.withSlot params State.slotErase)).settle

end Sys2Proof.Machine
end

