-- ==== Sys2Proof/Machine/CustodyRequests.lean ====
section
/-! DEFINITION. The CUST requests and the events of the custodian lines (R27 to R46). -/

namespace Sys2Proof.Machine

/-! ## CUST.OPEN (R36) -/

/-- The parameters of CUST.OPEN as step 3 takes them (R36). -/
structure OpenRequest where
  slot : SlotNo
  role : Role
  kind : KeyKind
  label : List Byte
  expected : List Byte
  needed : Nat
deriving DecidableEq, Repr

/-- A character a label or a serial prefix may hold (R36, R85, R93). -/
def printable (b : Byte) : Bool := 0x20 ≤ b.toNat && b.toNat ≤ 0x7E

/-- Step 3 of R36: the parameters in range and the pairing allowed. -/
def OpenRequest.read? (params : List Byte) : Option OpenRequest :=
  match below 32 (number params 0 1), Role.ofCode (number params 1 1), KeyKind.ofCode (number params 2 1) with
  | some slot, some role, some kind =>
    let label := field params 3 8
    let needed := number params 14 1
    if role.allows kind && label.all printable && (needed == 2 || needed == 3) then
      some ⟨slot, role, kind, label, field params 11 3, needed⟩
    else none
  | _, _, _ => none

/-- Seconds left to a moment of the part's own timing. -/
def State.secondsLeft (s : State) (deadline : Nat) : Nat := deadline - s.now

/-- An assembly as CUST.STATUS and the reply of CUST.OPEN report it, its parts apart (R36, R44). -/
def Assembly.bytes (a : Assembly) (left : Nat) : List Byte :=
  be 1 a.slot.val ++ be 1 a.role.code ++ be 1 a.kind.code ++ a.label ++ a.expected ++ be 1 a.needed ++ be 1 a.phase.code
    ++ be 1 a.refusals ++ a.start.bytes ++ be 2 left

/-- Each accepted part's custodian number and line, in parts-list order (R44). -/
def Assembly.partBytes (a : Assembly) : List Byte := counted Contributor.bytes a.contributors

/-- The assembly created by CUST.OPEN (R36). -/
def OpenRequest.assembly (r : OpenRequest) (t : Stamp) (now : Nat) : Assembly :=
  ⟨r.slot, r.role, r.kind, r.label, r.expected, r.needed, [], 0, .collecting, t, now + assemblySeconds, false⟩

/-- CUST.OPEN from step 4 on (R36). Which fields 'the assembly as created' has in the reply is the model's choice: those
of CUST.STATUS, with the parts list empty (log entry 19). -/
def State.custOpen (r : OpenRequest) (s : State) : State :=
  if s.keys.zeroizing || s.pins.tamper then s.refuse .tampered
  else s.underWindow (fun pair s =>
    if s.custody.assembly.isSome then s.refuse .wrongState
    else
      match s.askCustody 2 with
      | (false, s) => s.refuse .journalFull
      | (true, s) =>
        let s := s.readSlotWords r.slot []
        let x := s.slot r.slot
        if x.state ≠ .empty || x.holders ≠ 0 then (s.giveBack (.custody 2)).refuse .wrongState
        else
          let s := s.updSlot r.slot (·.opened r.role r.kind r.label)
          let a := r.assembly s.stamp s.now
          let s := s.updCustody (fun c => { c with assembly := some a })
          let fields := be 1 r.slot.val ++ be 1 r.role.code ++ be 1 r.kind.code ++ r.label ++ r.expected ++ be 1 r.needed
          (s.queueCustody .assemblyOpened pair fields).answer .ok (a.bytes assemblySeconds ++ a.partBytes))

/-- CUST.OPEN (R36). -/
def execCustOpen (tag : Byte) (params : List Byte) (s : State) : Host.Outcome State Fault Refusal :=
  .next (s.request 4 1 (.bytes 15) false tag params (fun s =>
    match OpenRequest.read? params with
    | none => s.refuse .badValue
    | some r => s.custOpen r)).settle

/-! ## CUST.CANCEL, CUST.CLOSE, CUST.STATUS (R35, R43, R44) -/

/-- CUST.CANCEL (R43). -/
def execCustCancel (tag : Byte) (params : List Byte) (s : State) : Host.Outcome State Fault Refusal :=
  .next (s.request 4 2 .bare false tag params (fun s =>
    match s.custody.assembly with
    | none => s.refuse .wrongState
    | some a => (s.failAssembly .cancelled).answer .ok (be 1 a.slot.val))).settle

/-- CUST.CLOSE: the window closes if it is OPEN, and the reopen bar is set either way (R35). -/
def execCustClose (tag : Byte) (params : List Byte) (s : State) : Host.Outcome State Fault Refusal :=
  .next (s.request 4 3 .bare false tag params (fun s =>
    let was := s.windowOpen
    ((s.closeWindow true).updCustody (fun c => { c with reopenBar := true })).answer .ok [boolByte was]))

/-- A line as CUST.STATUS reports it: the present custodian and the seconds left of the lifetime (R44). R44 says 'or none'
of the custodian alone. That the seconds left have a presence byte of their own, apart from the custodian's, and their
2-byte width are the model's choice (log entry 19). -/
def State.lineBytes (s : State) (l : Line) : List Byte :=
  let p := (s.custody.line l).presence
  present 1 (p.map (fun x => be 1 x.custodian)) ++ present 2 (p.map (fun x => be 2 (s.secondsLeft x.lifetimeEnd)))

/-- The result of CUST.STATUS: the fields R44 names. R28 has a check value appear there only after the assembly has
ended, and R44 names the expected check value of the assembly in progress and none of an ended one: the model follows
R44 (log entry 28). -/
def State.custodyBytes (s : State) : List Byte :=
  let c := s.custody
  s.lineBytes .a ++ s.lineBytes .b ++ s.windowBytes
    ++ present 2 (c.window.map (fun w => be 2 (s.secondsLeft (w.openedAt + windowSeconds))))
    ++ [boolByte c.reopenBar, boolByte s.pins.tamper, boolByte s.keys.zeroizing]
    ++ present 24 (c.assembly.map (fun a => a.bytes (s.secondsLeft a.limitEnd)))
    ++ ((c.assembly.map Assembly.partBytes).getD [0])
    ++ be 1 c.intake.length ++ [boolByte c.underCheck]
    ++ present 6 (c.lastEnding.map (fun e => be 1 e.slot.val ++ be 1 e.ending.code ++ be 4 e.seconds))

/-- CUST.STATUS (R44). -/
def execCustStatus (tag : Byte) (params : List Byte) (s : State) : Host.Outcome State Fault Refusal :=
  .next (s.request 4 4 .bare false tag params (fun s => s.answer .ok s.custodyBytes))

/-! ## Frames on the custodian lines (R27) -/

/-- An earlier record of the line has not been answered: its component is in the intake (R27, R38). -/
def State.lineBusy (s : State) (l : Line) : Bool := s.custody.intake.any (fun e => e.line == l)

/-- A frame of the pad on line `l` heard while the line listens: dropped in STARTING and in SHUTDOWN, passed over
while the receiver waits for quiet, dropped with PAD-ERROR while an earlier record is unanswered; else `k`
follows (R27, R46). -/
def State.padHeard (s : State) (l : Line) (k : State → State) : State :=
  if s.link.mode ≠ .ready then s
  else if (s.custody.line l).receiver ≠ .listening then s
  else if s.lineBusy l then s.raiseGlobal .padError
  else k s

/-- A bad frame answered: RESULT(FRAME) and PAD-ERROR (R27). -/
def State.badPadFrame (s : State) (l : Line) : State := (s.sendResult l typeBadFrame (some .frame)).raiseGlobal .padError

/-- A PRESENCE with a custodian number in range (R29, R32). -/
def State.takePresence (l : Line) (n : Nat) (s : State) : State :=
  if s.keys.zeroizing then s.sendResult l typePresence (some .tampered)
  else if s.present? (otherLine l) = some n then s.sendResult l typePresence (some .sameCustodian)
  else
    let begun := decide (s.present? l ≠ some n)
    let s := if begun then (s.endPresence l).updCustody (fun c => { c with reopenBar := false }) else s
    let s := s.updLine l (fun x => { x with presence := some ⟨n, s.now + presenceSeconds⟩ })
    (s.considerWindow begun).sendResult l typePresence none

/-- A custodian number of a record, 1 to 99 (R27). -/
def custodianOk (n : Byte) : Bool := 1 ≤ n.toNat && n.toNat ≤ 99

/-- PAD_PRESENCE (R29). -/
def execPadPresence (line : Line) (custodian : Byte) (s : State) : Host.Outcome State Fault Refusal :=
  .next (s.padHeard line (fun s =>
    if custodianOk custodian then s.takePresence line custodian.toNat else s.badPadFrame line)).settle

/-- PAD_WITHDRAW (R30). -/
def execPadWithdraw (line : Line) (s : State) : Host.Outcome State Fault Refusal :=
  .next (s.padHeard line (fun s =>
    match s.present? line with
    | some _ => (s.endPresence line).sendResult line typeWithdraw none
    | none => s.sendResult line typeWithdraw (some .notPresent)))

/-- PAD_COMPONENT: it joins the intake, and is taken up when no other is under check (R38, R39). -/
def execPadComponent (line : Line) (custodian : Byte) (component stated : List Byte) (s : State) :
    Host.Outcome State Fault Refusal :=
  .next (s.padHeard line (fun s =>
    if custodianOk custodian && (component.length == 16 || component.length == 32) && stated.length == 3 then
      s.updCustody (fun c => { c with intake := c.intake ++ [⟨line, custodian.toNat, component, stated⟩] })
    else s.badPadFrame line)).settle

/-- PAD_BAD_FRAME: a whole frame with a wrong CRC, an unknown type, a length its type does not allow or a bad
custodian number (R27, R204). -/
def execPadBadFrame (line : Line) (body : List Byte) (crc : BitVec 16) (s : State) : Host.Outcome State Fault Refusal :=
  .next (if padLengthOk body.length && (crc ≠ framedCrc body || !padRecordOk body) then
      s.padHeard line (fun s => s.badPadFrame line)
    else s)

/-- The receiver of a line put into a state. -/
def State.setPadReceiver (s : State) (l : Line) (r : PadReceiver) : State :=
  s.updLine l (fun x => { x with receiver := r })

/-- A body length out of range while the line listens: the frame ends at once, and every byte is ignored until
quiet. The quiet is followed by the answer when the frame is heard, and by none when it is one dropped without an
answer: in STARTING, or with PAD-ERROR while an earlier record is unanswered (R27). -/
def State.padLengthBad (s : State) (l : Line) : State :=
  if (s.custody.line l).receiver ≠ .listening then s
  else
    match s.link.mode with
    | .starting => s.setPadReceiver l .droppingUntilQuiet
    | .shutdown => s
    | .ready => (s.setPadReceiver l (if s.lineBusy l then .droppingUntilQuiet else .awaitingQuiet)).raiseGlobal .padError

/-- PAD_BAD_LENGTH: the frame ends at once and the receiver ignores every byte until quiet; PAD-ERROR is raised, but
not in STARTING (R27). -/
def execPadBadLength (line : Line) (length : BitVec 16) (s : State) : Host.Outcome State Fault Refusal :=
  .next (if padLengthOk length.toNat then s else s.padLengthBad line)

/-- PAD_FRAME_GAP: a gap inside a frame makes it a bad frame (R27). -/
def execPadFrameGap (line : Line) (s : State) : Host.Outcome State Fault Refusal :=
  .next (s.padHeard line (fun s => s.badPadFrame line))

/-- PAD_QUIET: the bad frame is answered, unless it was dropped without an answer, and a start byte looked for again
(R27). -/
def execPadQuiet (line : Line) (s : State) : Host.Outcome State Fault Refusal :=
  .next (if s.isShutdown then s
    else
      match (s.custody.line line).receiver with
      | .listening => s
      | .awaitingQuiet => (s.setPadReceiver line .listening).sendResult line typeBadFrame (some .frame)
      | .droppingUntilQuiet => s.setPadReceiver line .listening)

/-- PAD_FRAME_UNANSWERED: a frame begun while the line's earlier record is unanswered is dropped and PAD-ERROR
raised (R27). -/
def execPadFrameUnanswered (line : Line) (s : State) : Host.Outcome State Fault Refusal :=
  .next (if s.link.mode = .ready && (s.custody.line line).receiver = .listening && s.lineBusy line then
      s.raiseGlobal .padError
    else s)

/-! ## Time on the custodian lines (R31, R33, R37) -/

/-- The lifetime of the line's presence was restarted in the second in progress: a refresh taken first has overtaken the
lifetime's end (R31). -/
def State.lifetimeRestarted (s : State) (l : Line) : Bool :=
  (s.custody.line l).presence.any (fun x => x.lifetimeEnd == s.now + presenceSeconds)

/-- PRESENCE_LIFETIME_END: the presence ends, unless a PRESENCE taken first has restarted its lifetime (R31). -/
def execPresenceLifetimeEnd (line : Line) (s : State) : Host.Outcome State Fault Refusal :=
  .next (if s.isShutdown || s.lifetimeRestarted line then s else s.endPresence line)

/-- The window opened in the second in progress: a replacement taken first has closed the window whose 300 s have
ended, and this one is new (R32, R33). -/
def State.windowReopened (s : State) : Bool := s.custody.window.any (fun w => s.begunNow w.openedAt)

/-- WINDOW_EXPIRY: the window closes and the reopen bar is set, unless the window whose time has ended is closed already
and a new one stands open (R33). -/
def execWindowExpiry (s : State) : Host.Outcome State Fault Refusal :=
  .next (if s.isShutdown || s.windowReopened then s else s.closeWindow true)

/-- A completing component is under check (R37). -/
def State.completingUnderCheck (s : State) : Bool :=
  s.custody.underCheck && ((s.custody.assembly.map Assembly.completing).getD false)

/-- ASSEMBLY_LIMIT_END: the assembly fails with TIMEOUT, unless it is COMBINING; while a completing component is
under check the failure waits for that check (R37). -/
def execAssemblyLimitEnd (s : State) : Host.Outcome State Fault Refusal :=
  if s.isShutdown then .next s
  else
    match s.custody.assembly with
    | none => .next s
    | some a =>
      if a.phase = .combining then .next s
      else if s.completingUnderCheck then
        .next (s.updCustody (fun c => { c with assembly := some { a with limitPassed := true } }))
      else .next (s.failAssembly .timeout).settle

end Sys2Proof.Machine
end

