-- ==== Sys2Proof/Machine/EngineRequests.lean ====
section
/-! DEFINITION. The ENG requests and the end of a job (R56, R60, R62). -/

namespace Sys2Proof.Machine

/-- How many jobs wait. -/
def Engine.waitingCount (e : Engine) : Nat := (e.waiting.list.filter Option.isSome).length

/-- ENG.HOLD (R60). The number of waiting jobs is 1 byte: the model's choice (log entry 19). -/
def execEngHold (tag : Byte) (params : List Byte) (s : State) : Host.Outcome State Fault Refusal :=
  .next (s.request 5 1 .bare false tag params (fun s =>
    let e := s.engine
    (s.updEngine (fun e => { e with holdHost := true })).answer .ok
      ([boolByte e.holdHost] ++ present 1 (e.inFlight.map (fun f => be 1 f.job.requester.val)) ++ be 1 e.waitingCount)))

/-- ENG.RESUME (R60). The reply is formed before the arbiter grants, so flags that the grant's key read raises are not in
its attention fields: the model's choice (log entry 6). -/
def execEngResume (tag : Byte) (params : List Byte) (s : State) : Host.Outcome State Fault Refusal :=
  .next (s.request 5 2 .bare false tag params (fun s =>
    let s := s.updEngine (fun e => { e with holdHost := false })
    s.answer .ok s.engine.holdBytes)).settle

/-- The job of requester `r`, in flight or waiting: 1 no job, 2 a waiting job, 3 the job in flight; its kind where
there is one; for requester 16, 1 for the Custody Unit's and 2 for SLOT.VERIFY's (R62, R200). These codes are the model's
choice (log entry 19). -/
def Engine.requesterBytes (e : Engine) (r : Fin 17) : List Byte :=
  let flying := e.inFlight.bind (fun f => if f.job.requester = r then some f.job else none)
  let job := match flying with | some j => some j | none => e.waiting.look r
  let code : Nat := match flying, e.waiting.look r with | some _, _ => 3 | none, some _ => 2 | none, none => 1
  be 1 code ++ present 1 (job.map (fun j => be 1 j.work.code))
    ++ (if r = custodyRequester then present 1 (job.map (fun j => if j.isVerify then [2] else [1])) else [])

/-- The result of ENG.STATUS (R62). -/
def Engine.statusBytes (e : Engine) : List Byte :=
  e.holdBytes
    ++ present 3 (e.inFlight.map (fun f => be 1 f.job.requester.val ++ be 1 f.job.work.code ++ be 1 f.mark.code))
    ++ be 1 e.pointer.val ++ (List.finRange 17).flatMap e.requesterBytes ++ be 4 e.completed

/-- ENG.STATUS (R62). -/
def execEngStatus (tag : Byte) (params : List Byte) (s : State) : Host.Outcome State Fault Refusal :=
  .next (s.request 5 3 .bare false tag params (fun s => s.answer .ok s.engine.statusBytes))

/-- JOB_END: the job in flight completes, its outcome is delivered or dropped, and the arbiter decides again
(R54, R56). -/
def execJobEnd (s : State) : Host.Outcome State Fault Refusal := .next s.endJob.settle

end Sys2Proof.Machine
end

