-- ==== Sys2Proof/Machine/OrderRequests.lean ====
section
/-! DEFINITION. The ORD requests (R102 to R109). -/

namespace Sys2Proof.Machine

/-- The order number of an ORD request in its range, or BAD-VALUE (R102). -/
def State.withNumber (s : State) (params : List Byte) (k : Nat → State → State) : State :=
  let n := number params 0 2
  if n = 0 then s.refuse .badValue else k n s

/-- The order a request names, or NOT-FOUND (R102). -/
def State.withOrder (s : State) (params : List Byte) (k : Order → State → State) : State :=
  s.withNumber params (fun n s =>
    match s.order? n with
    | none => s.refuse .notFound
    | some o => k o s)

/-- An order as a reply reports it, if it is in the table. -/
def State.orderBytes (s : State) (n : Nat) : List Byte := ((s.order? n).map Order.bytes).getD []

/-- How many ports wait for profile `p`. -/
def State.waitingCount (s : State) (p : Fin 16) : Nat := (s.waitingList p).length

/-! ## ORD.PLACE (R103) -/

/-- The order ORD.PLACE adds (R103). -/
def Order.placed (n : Nat) (p : Fin 16) (quantity spoilLimit placement : Nat) : Order where
  number := n
  profile := p
  quantity := quantity
  remaining := quantity
  inProgress := 0
  completed := 0
  abandoned := 0
  spoiled := 0
  spoilLimit := spoilLimit
  state := .queued
  hold := none
  abortRequested := false
  started := false
  placement := placement
  unitHolders := []

/-- ORD.PLACE from its values on. The number of waiting ports served is 1 byte of its reply: the model's choice (R103,
log entry 19). -/
def State.ordPlace (n : Nat) (params : List Byte) (s : State) : State :=
  let quantity := number params 3 2
  let spoilLimit := number params 5 1
  match below 16 (number params 2 1) with
  | none => s.refuse .badValue
  | some p =>
    if quantity = 0 || 9999 < quantity || 99 < spoilLimit then s.refuse .badValue
    else if (s.order? n).isSome then s.refuse .duplicate
    else if 24 ≤ s.orders.orders.length || 0xFFFFFFFF ≤ s.orders.placements then s.refuse .tableFull
    else
      let s := s.readProfileState p
      match (s.profile p).state with
      | .undefined => s.refuse .notFound
      | .damaged => s.refuse .wrongState
      | .defined =>
        let seq := s.orders.placements + 1
        let s := { s with orders := { s.orders with
          placements := seq, orders := s.orders.orders ++ [Order.placed n p quantity spoilLimit seq] } }
        let before := s.waitingCount p
        let s := s.serveProfile p
        s.answer .ok (be 4 seq ++ be 1 (before - s.waitingCount p) ++ s.orderBytes n)

/-- ORD.PLACE (R103). -/
def execOrdPlace (tag : Byte) (params : List Byte) (s : State) : Host.Outcome State Fault Refusal :=
  .next (s.request 8 1 (.bytes 6) false tag params (fun s =>
    s.withNumber params (fun n s => s.ordPlace n params))).settle

/-! ## ORD.AMEND (R104) -/

/-- What is done, in progress or given up of an order. -/
def Order.committed (o : Order) : Nat := o.completed + o.inProgress + o.abandoned

/-- The least quantity an amendment may take (R104). -/
def Order.floor (o : Order) : Nat := max 1 o.committed

/-- The quantity an amendment takes: the one requested, clamped to the floor and to 9999 (R104). -/
def Order.amendedQuantity (o : Order) (requested : Nat) : Nat := max o.floor (min 9999 requested)

/-- The order amended (R104). -/
def Order.amended (o : Order) (requested spoilLimit : Nat) : Order :=
  { o with quantity := o.amendedQuantity requested
           remaining := o.amendedQuantity requested - o.committed
           spoilLimit := spoilLimit }

/-- The direction of a clamp: 1 raised, 2 lowered, none when the quantity was taken as requested (R104,
R200). -/
def clampDirection (requested taken : Nat) : Option (List Byte) :=
  if requested < taken then some [1] else if taken < requested then some [2] else none

/-- The order is in QUEUED, RUNNING or HELD (R104, R107). -/
def Order.amendable (o : Order) : Bool := o.state == .queued || o.state == .running || o.state == .held

/-- ORD.AMEND on the order it names (R104). -/
def State.ordAmend (params : List Byte) (o : Order) (s : State) : State :=
  let requested := number params 2 2
  let spoilLimit := number params 4 1
  if 99 < spoilLimit then s.refuse .badValue
  else if !o.amendable then s.refuse .wrongState
  else
    let taken := o.amendedQuantity requested
    let s := (s.updOrder o.number (·.amended requested spoilLimit)).testFinished o.number
    let s := if o.remaining < (o.amended requested spoilLimit).remaining then s.serveOrder o.number else s
    s.answer .ok (be 2 taken ++ present 1 (clampDirection requested taken) ++ s.orderBytes o.number)

/-- ORD.AMEND (R104). -/
def execOrdAmend (tag : Byte) (params : List Byte) (s : State) : Host.Outcome State Fault Refusal :=
  .next (s.request 8 2 (.bytes 5) false tag params (fun s => s.withOrder params (State.ordAmend params))).settle

/-! ## ORD.HOLD and ORD.RELEASE (R105, R106) -/

/-- ORD.HOLD on the order it names (R105). Its reply gives the reason replaced, with its presence byte, and then the order
as left: the model's choice, since R102 and R105 give the two in no order (log entry 19). -/
def State.ordHold (o : Order) (s : State) : State :=
  if o.amendable then
    let s := s.updOrder o.number (fun o => { o with state := .held, hold := some .host })
    s.answer .ok (present 1 (o.hold.map (fun h => be 1 h.code)) ++ s.orderBytes o.number)
  else s.refuse .wrongState

/-- ORD.HOLD (R105). -/
def execOrdHold (tag : Byte) (params : List Byte) (s : State) : Host.Outcome State Fault Refusal :=
  .next (s.request 8 3 (.bytes 2) false tag params (fun s => s.withOrder params State.ordHold))

/-- The order released: DRAINING with abort requested, else RUNNING once started, else QUEUED (R106). -/
def Order.released (o : Order) : Order :=
  { o with hold := none
           state := if o.abortRequested then .draining else if o.started then .running else .queued }

/-- ORD.RELEASE on the order it names (R106). -/
def State.ordRelease (o : Order) (s : State) : State :=
  if o.state ≠ .held then s.refuse .wrongState
  else
    let s := ((s.updOrder o.number Order.released).testFinished o.number).serveOrder o.number
    s.answer .ok (be 1 ((o.hold.map (·.code)).getD 0) ++ s.orderBytes o.number)

/-- ORD.RELEASE (R106). -/
def execOrdRelease (tag : Byte) (params : List Byte) (s : State) : Host.Outcome State Fault Refusal :=
  .next (s.request 8 4 (.bytes 2) false tag params (fun s => s.withOrder params State.ordRelease)).settle

/-! ## ORD.ABORT and ORD.RETIRE (R107, R108) -/

/-- The order aborted (R107). -/
def Order.aborted (o : Order) : Order :=
  { o with abortRequested := true, abandoned := o.abandoned + o.remaining, remaining := 0, hold := none, state := .draining }

/-- ORD.ABORT on the order it names: the notices go to every port of its unit holders (R107). The number of notices is
1 byte of its reply: the model's choice (log entry 19). -/
def State.ordAbort (o : Order) (s : State) : State :=
  if !o.amendable then s.refuse .wrongState
  else
    let s := (s.updOrder o.number Order.aborted).testFinished o.number
    let s := o.unitHolders.foldl (fun s p => s.tell (.abortNotice p)) s
    s.answer .ok (be 2 o.remaining ++ be 1 o.unitHolders.length
      ++ be 1 (((s.order? o.number).map (fun x => x.state.code)).getD 0))

/-- ORD.ABORT (R107). -/
def execOrdAbort (tag : Byte) (params : List Byte) (s : State) : Host.Outcome State Fault Refusal :=
  .next (s.request 8 5 (.bytes 2) false tag params (fun s => s.withOrder params State.ordAbort)).settle

/-- An order's final counts (R108). -/
def Order.countBytes (o : Order) : List Byte :=
  be 2 o.quantity ++ be 2 o.remaining ++ be 2 o.inProgress ++ be 2 o.completed ++ be 2 o.abandoned ++ be 2 o.spoiled

/-- ORD.RETIRE on the order it names (R108). -/
def State.ordRetire (o : Order) (s : State) : State :=
  if o.isOpen then s.refuse .wrongState
  else
    State.answer { s with orders := { s.orders with
      orders := s.orders.orders.filter (fun x => x.number != o.number) } } .ok o.countBytes

/-- ORD.RETIRE (R108). -/
def execOrdRetire (tag : Byte) (params : List Byte) (s : State) : Host.Outcome State Fault Refusal :=
  .next (s.request 8 6 (.bytes 2) false tag params (fun s => s.withOrder params State.ordRetire))

/-! ## ORD.STATUS and ORD.LIST (R109) -/

/-- ORD.STATUS (R109). -/
def execOrdStatus (tag : Byte) (params : List Byte) (s : State) : Host.Outcome State Fault Refusal :=
  .next (s.request 8 7 (.bytes 2) false tag params (fun s => s.withOrder params (fun o s => s.answer .ok o.bytes)))

/-- An order put into a list kept by placement sequence. -/
def insertOrder (o : Order) : List Order → List Order
  | [] => [o]
  | x :: xs => if o.placement ≤ x.placement then o :: x :: xs else x :: insertOrder o xs

/-- The result of ORD.LIST: the orders oldest first, the sixteen waiting lists, the placement counter (R109). -/
def OrderTable.listBytes (t : OrderTable) : List Byte :=
  counted Order.listBytes (t.orders.foldr insertOrder [])
    ++ t.waiting.list.flatMap (counted (fun p : PortNo => be 1 p.val)) ++ be 4 t.placements

/-- ORD.LIST (R109). -/
def execOrdList (tag : Byte) (params : List Byte) (s : State) : Host.Outcome State Fault Refusal :=
  .next (s.request 8 8 .bare false tag params (fun s => s.answer .ok s.orders.listBytes))

end Sys2Proof.Machine
end

