-- ==== Sys2Proof/Machine/Scan.lean ====
section
/-! DEFINITION. What a power-on reset finds in the flash, and the start-up scan (R180 to R182). -/

namespace Sys2Proof.Machine

/-! ## What became of a flash operation cut off by the reset (R180 to R182) -/

/-- The segment an append's program writes into, opened for it if none is ACTIVE. -/
def Journal.forAppend (j : Journal) (seq : Nat) : Journal × Option (Fin 64) :=
  match j.active? with
  | some i => (j, some i)
  | none =>
    match j.nextErased? with
    | some i => (j.updSegment i (fun g => { g with header := openedHeader seq, state := .active }), some i)
    | none => (j, none)

/-- A place with the bytes given added to the segment an append writes into. -/
def Journal.addPlace (j : Journal) (seq : Nat) (bytes : List Byte) : Journal :=
  match j.forAppend seq with
  | (j, some i) => j.updSegment i (fun g => { g with places := g.places ++ [⟨bytes, false⟩] })
  | (j, none) => j

/-- The flash as the operation in progress at the reset left it. -/
def Journal.afterFate (j : Journal) (f : FlashFate) : Journal :=
  match j.flash, f with
  | .programming (.append seq bytes), .complete => j.addPlace seq bytes
  | .programming (.append seq _), .cut bytes => j.addPlace seq bytes
  | .programming (.append _ _), .cutOpening header =>
    match j.active?, j.nextErased? with
    | none, some i => j.updSegment i (fun g => { g with header := header })
    | _, _ => j
  | .programming (.attached ref bytes), .complete => j.writePart ref bytes false
  | .programming (.attached ref _), .cut bytes => j.writePart ref bytes false
  | .programming (.settle bytes), .complete =>
    match j.head? with
    | some (.settle ⟨some ref, _, _, _, _⟩) => j.writePart ref bytes false
    | _ => j
  | .programming (.settle _), .cut bytes =>
    match j.head? with
    | some (.settle ⟨some ref, _, _, _, _⟩) => j.writePart ref bytes false
    | _ => j
  | .erasing i, .complete => j.updSegment i (fun _ => Segment.blank)
  | .erasing i, .cut header => j.updSegment i (fun g => { g with header := header })
  | _, _ => j

/-! ## The scan (R181) -/

/-- The places up to the last one that is not erased (R165). -/
def usedPlaces (ps : List Place) : List Place := (ps.reverse.dropWhile Place.isErased).reverse

/-- A place as the scan finds it: its settlement part reads by its bytes alone, and what the part knew of a failed
program is lost with the reset (R166, R181). -/
def Place.found (p : Place) : Place := { p with settleFailed := false }

/-- A segment's state from its header and its places (R164, R181). A header that is neither erased nor of a
valid form, or an erased one over places not all erased, is an erase cut off: the segment stands ERASING until
the erase has been made again. -/
def Segment.scanned (g : Segment) : Segment :=
  let ps := (usedPlaces g.places).map Place.found
  let t : SegmentState :=
    if badMarked g.header then .bad
    else if allErased g.header then (if ps.isEmpty then .erased else .erasing)
    else if openedValid g.header then
      (if fullMarked g.header || placesPerSegment ≤ ps.length then .full else .active)
    else .erasing
  { g with places := ps, state := t }

/-- The number after the newest record of a segment, or 0 where it holds no record. -/
def Segment.newestKey (g : Segment) : Nat :=
  match g.records.getLast? with
  | some (q, _, _) => q + 1
  | none => 0

/-- Of two opened segments, the one whose records are newer; of two that hold no record, the one with the larger first
sequence mark, which R181 leaves open (log entry 18). -/
def newerSegment (best : Option (Fin 64 × Segment)) (x : Fin 64 × Segment) : Option (Fin 64 × Segment) :=
  match best with
  | none => some x
  | some b =>
    if b.2.newestKey < x.2.newestKey || (b.2.newestKey == 0 && x.2.newestKey == 0
        && decide (firstMark b.2.header < firstMark x.2.header)) then some x
    else some b

/-- If more than one segment is ACTIVE, the one holding the newest record stays so and the others are FULL
(R181). -/
def Journal.oneActive (j : Journal) : Journal :=
  match (j.numbered.filter (fun x => x.2.state == .active)).foldl newerSegment none with
  | none => j
  | some (i, _) => { j with segments := Vector.ofFn (fun k : Fin 64 =>
      let g := j.segments.look k
      if g.state = .active && k ≠ i then { g with state := .full } else g) }

/-- Of two held segments with used places, the one opened later: the larger first sequence mark, and of equal marks
the one that holds a record, since an earlier segment with the same mark got voids alone (R164, R167). -/
def laterSegment (best : Option (Fin 64 × Segment)) (x : Fin 64 × Segment) : Option (Fin 64 × Segment) :=
  match best with
  | none => some x
  | some b =>
    if firstMark b.2.header < firstMark x.2.header
        || (firstMark b.2.header == firstMark x.2.header && b.2.records.isEmpty) then some x
    else some b

/-- The segment with the last used place of the journal: of the held segments with used places, the one opened
last. -/
def Journal.lastUsed? (j : Journal) : Option (Fin 64) :=
  ((j.numbered.filter (fun x => x.2.held && !x.2.places.isEmpty)).foldl laterSegment none).map (·.1)

/-- A record whose program was cut off by power loss is made void (R181). -/
def Journal.voidCutOff (j : Journal) : Journal :=
  match j.lastUsed? with
  | none => j
  | some i => j.updSegment i (fun g => { g with places :=
      match g.places.getLast? with
      | some p => if p.isRecord && !p.sound then g.places.dropLast ++ [p.voided] else g.places
      | none => g.places })

/-- The segment holding the newest record, or 63 (R164). -/
def Journal.findLastOpened (j : Journal) : Fin 64 := (j.heldRecords.getLast?.map (·.segment)).getD 63

/-- The newest record found, if there is one. -/
def Journal.newestFound (j : Journal) : Option Nat := j.heldRecords.getLast?.map (·.seq)

/-- The largest first sequence mark of any opened or BAD header, or 1 (R182). A BAD header whose opened mark is not
sound (R205) is passed over: the model's choice, R182 not saying what mark it has (log entry 18). -/
def Journal.largestMark (j : Journal) : Nat :=
  j.segments.list.foldl (fun n g => if openedSound g.header && (g.held || g.state == .bad) then max n (firstMark g.header)
    else n) 1

/-- Both counters rebuilt from the flash (R182). -/
def Journal.rebuilt (j : Journal) : Journal :=
  let next := match j.newestFound with | some q => q + 1 | none => j.largestMark
  let j := { j with nextSeq := ⟨next, GroupMem.clean⟩ }
  { j with released := ⟨j.oldestHeld - 1, GroupMem.clean⟩ }

/-- The counters kept, reconciled with the flash (R182). -/
def Journal.reconciled (j : Journal) : Journal :=
  let next := match j.newestFound with | some q => max j.nextSeq.value (q + 1) | none => j.nextSeq.value
  let released := match j.oldestPending with | some q => min j.released.value (q - 1) | none => j.released.value
  { j with nextSeq := ⟨next, j.nextSeq.mem⟩, released := ⟨released, j.released.mem⟩ }

/-- A start-up settlement of a PENDING record (R181). -/
def startSettlement (t : Stamp) (r : HeldRecord) : QueueEntry :=
  .settle ⟨some r.ref, none, ⟨.interrupted, .none, t, []⟩, false, none⟩

/-- The segments whose erase was cut off join the erase list (R181). -/
def Journal.listCutOff (j : Journal) : Journal :=
  { j with eraseList := j.numbered.foldl (fun list x =>
      if x.2.state = .erasing then j.insertErase x.1 list else list) [] }

/-- The scan's part in the flash: the segment states, one ACTIVE segment, the record cut off made void, and the
segment opened last (R164, R181). -/
def Journal.scanned (j : Journal) : Journal :=
  let j := { j with segments := Bank.mapAll Segment.scanned j.segments }
  let j := j.oneActive.voidCutOff
  { j with lastOpened := j.findLastOpened }

/-- The start-up scan: segment states, the cut-off record, the counters, the INTERRUPTED settlements, reclaim and
the warning (R181, R182); `lost` says that the store check has found the store lost (R9). -/
def State.scanFlash (s : State) (lost : Bool) : State :=
  let s := s.updJournal Journal.scanned
  let (nextOk, s) := s.readNextSeq
  let (releasedOk, s) := s.readReleased
  let s := s.updJournal (fun j => if lost || !nextOk || !releasedOk then j.rebuilt else j.reconciled)
  let pending := s.journal.pendingRecords
  let s := s.updJournal (fun j => { j with startQueue := pending.map (startSettlement s.stamp) })
  let s := s.raiseWhen (!pending.isEmpty) .journalInterrupted
  (s.updJournal (fun j => j.listCutOff.judgeReclaim)).judgeHigh

end Sys2Proof.Machine
end

