-- ==== Sys2Proof/Machine/PortEvents.lean ====
section
/-! DEFINITION. The events of the bench lines and the flash (R123 to R131, R134, R135, R143 to R156, R172 to R177,
R182), and the JRN requests (R176, R178, R179). -/

namespace Sys2Proof.Machine

/-! ## The line of a port (R123, R129, R131, R135) -/

/-- Line activity on port `p`: it wakes a DORMANT port, and restarts a quiet count (R129, R131, R135). -/
def State.activity (s : State) (p : PortNo) : State :=
  match (s.port p).state with
  | .dormant => s.updPort p (fun q => { q with state := .listening, inStep := false, timerFrom := s.now })
  | .cooldown => s.updPort p (fun q => { q with timerFrom := s.now })
  | .readmitting => s.updPort p (fun q => { q with timerFrom := s.now })
  | _ => s

/-- An event of a port's line: nothing is followed in SHUTDOWN (R141). -/
def State.onLine (s : State) (k : State → State) : State := if s.isShutdown then s else k s

/-- LINE_ACTIVITY (R129). -/
def execLineActivity (port : PortNo) (s : State) : Host.Outcome State Fault Refusal :=
  .next (s.onLine (fun s => s.activity port))

/-- BENCH_IN_STEP (R123). -/
def execBenchInStep (port : PortNo) (s : State) : Host.Outcome State Fault Refusal :=
  .next (s.onLine (fun s => if (s.port port).decodes then s.updPort port (fun q => { q with inStep := true }) else s))

/-- Characters of a frame received on port `p`. A port that does not decode its line takes them as activity; one
out of step ignores them; else `k` follows with the judgement of the characters (R122, R123). -/
def State.received (s : State) (p : PortNo) (chars : List Byte) (k : Judged → State → State) : State :=
  s.onLine (fun s =>
    let q := s.port p
    if !q.decodes then s.activity p
    else if !q.inStep then s
    else k (q.settings.judge chars) s)

/-- BENCH_CHECK_ERROR (R123). -/
def execBenchCheckError (port : PortNo) (chars : List Byte) (s : State) : Host.Outcome State Fault Refusal :=
  .next (s.received port chars (fun j s =>
    match j with
    | .badCheck => s.lineError port .check
    | _ => s)).settle

/-- BENCH_LENGTH_ERROR: the port goes out of step (R123). -/
def execBenchLengthError (port : PortNo) (chars : List Byte) (s : State) : Host.Outcome State Fault Refusal :=
  .next (s.received port chars (fun j s =>
    match j with
    | .badLength => (s.updPort port (fun q => { q with inStep := false })).lineError port .length
    | _ => s)).settle

/-- BENCH_CUT: the characters before the gap begin a frame and do not make it whole (R123). -/
def execBenchCut (port : PortNo) (chars : List Byte) (s : State) : Host.Outcome State Fault Refusal :=
  .next (s.received port chars (fun j s =>
    match j with
    | .begun => s.lineError port .cut
    | _ => s)).settle

/-- RESPONSE_TIMEOUT: scored as TIMEOUT, and the frame is resent or the session ends (R125, R126). -/
def execResponseTimeout (port : PortNo) (s : State) : Host.Outcome State Fault Refusal :=
  .next (s.onLine (fun s =>
    if ((s.session? port).bind (·.awaited)).isSome then s.lineError port .timeout else s)).settle

/-- LISTENING_PERIOD_END (R129). -/
def execListeningPeriodEnd (port : PortNo) (s : State) : Host.Outcome State Fault Refusal :=
  .next (s.onLine (fun s =>
    if (s.port port).state = .listening then s.updPort port (fun q => { q with state := .dormant }) else s))

/-- COOLDOWN_END: the port becomes DORMANT, unless line activity taken first has restarted its quiet count (R131). -/
def execCooldownEnd (port : PortNo) (s : State) : Host.Outcome State Fault Refusal :=
  .next (s.onLine (fun s =>
    if (s.port port).state = .cooldown && !s.begunNow (s.port port).timerFrom then s.updPort port (fun q => { q with state := .dormant }) else s))

/-- READMISSION_END: the score is 0, the port DORMANT, PORT-READMITTED raised, unless line activity taken first has
restarted the quiet count (R135). -/
def execReadmissionEnd (port : PortNo) (s : State) : Host.Outcome State Fault Refusal :=
  .next (s.onLine (fun s =>
    if (s.port port).state = .readmitting && !s.begunNow (s.port port).timerFrom then
      (s.updPort port (fun q => { q with state := .dormant, score := 0 })).raisePort .readmitted port
    else s))

/-! ## Good frames (R125, R129, R144, R154, R155) -/

/-- HELLO: in LISTENING it is taken as a good frame and starts a session with its greeting; during a session it is
discarded (R125, R129, R142, R144). -/
def execHello (port : PortNo) (chars : List Byte) (s : State) : Host.Outcome State Fault Refusal :=
  .next (s.received port chars (fun j s =>
    match j with
    | .good f =>
      if f.type = 0x21 && (s.port port).state = .listening then
        let t := helloTerminal f.payload
        let s := s.updPort port (fun q =>
          { q.scoreGood with state := .inSession, session := some (Session.created t), keyArea := KeyArea.blank })
        s.greet port t
      else s
    | _ => s)).settle

/-- A good frame of type `type` that answers the frame awaited on port `p`: it is taken as a good frame, the wait
ends, and `k` follows with the session as it was, the frame answered and the answer. Any other good frame is
discarded (R125, R127). -/
def State.takeAnswer (s : State) (p : PortNo) (chars : List Byte) (type : Byte)
    (k : Session → FrameType → BenchFrame → State → State) : State :=
  s.received p chars (fun j s =>
    match j, s.session? p with
    | .good f, some x =>
      match x.awaited with
      | some a =>
        if f.type = type && a.kind.answeredBy f.type && f.seq.toNat = a.seq then
          k x a.kind f ((s.updPort p Port.scoreGood).answerTaken p)
        else s
      | none => s
    | _, _ => s)

/-- READY: after WELCOME the session enters ASSIGNING; after WAIT it sends the frame it held back, if any: with every item
WRAPPED it enters LOADING with the first LOAD, and in CLOSING it ends with its CLOSE (R143 to R145, R154, R156). -/
def execReady (port : PortNo) (chars : List Byte) (s : State) : Host.Outcome State Fault Refusal :=
  .next (s.takeAnswer port chars 0x22 (fun x _ _ s =>
    match x.phase with
    | .greeting => s.askUnit port
    | .deriving => if (x.nextJob port (s.port port).keyArea).isNone then s.enterLoading port else s
    | .closing => s.endComplete port .natural
    | _ => s)).settle

/-- ACK: its check value equal to the item's makes the item LOADED and the next LOAD or COMMIT follows; a differing
one ends the session SPOILED(CHECK) (R154). -/
def execAck (port : PortNo) (chars : List Byte) (s : State) : Host.Outcome State Fault Refusal :=
  .next (s.takeAnswer port chars 0x23 (fun x _ f s =>
    let n := (x.firstItem (fun t => t == .loaded)).getD 0
    if ((x.items[n]?).bind (·.check)) = some (f.payload.take 3) then
      (s.updSession port (·.updItem n (fun e => { e with state := .loaded, block := none }))).sendLoad port
    else s.endSpoiled port .check)).settle

/-- NAK: the session ends SPOILED(TERMINAL) (R154, R155). -/
def execNak (port : PortNo) (chars : List Byte) (s : State) : Host.Outcome State Fault Refusal :=
  .next (s.takeAnswer port chars 0x24 (fun _ _ _ s => s.endSpoiled port .terminal)).settle

/-- DONE: the session enters SETTLING and hands over its COMPLETE settlement (R155, R156). -/
def execDone (port : PortNo) (chars : List Byte) (s : State) : Host.Outcome State Fault Refusal :=
  .next (s.takeAnswer port chars 0x25 (fun _ _ _ s => s.enterSettling port)).settle

/-! ## A session's waits (R143, R145, R148) -/

/-- The session has no frame to send and waits for another block: for a unit, a place, the programming of its
record, a job, or its settlement (R143). -/
def Session.idles (x : Session) : Bool :=
  x.awaited.isNone && (x.phase == .assigning || x.phase == .allocating || x.phase == .deriving || x.phase == .settling)

/-- IDLE_TIME_EXPIRY: the session sends WAIT with its phase code (R143, R202). -/
def execIdleTimeExpiry (port : PortNo) (s : State) : Host.Outcome State Fault Refusal :=
  .next (s.onLine (fun s =>
    match s.session? port with
    | some x => if x.idles then s.sendAwaiting port .wait (be 1 x.phase.code) else s
    | none => s))

/-- WAIT_LIMIT_EXPIRY: a waiting session leaves its list and ends UNSERVED (R114, R145). -/
def execWaitLimitExpiry (port : PortNo) (s : State) : Host.Outcome State Fault Refusal :=
  .next (s.onLine (fun s =>
    match s.session? port with
    | some x => if x.waiting then s.endUnnumbered port .unserved .none none else s
    | none => s)).settle

/-- JOURNAL_WAIT_EXPIRY: a session in the journal wait ends WITHDRAWN(NO-JOURNAL) (R148). -/
def execJournalWaitExpiry (port : PortNo) (s : State) : Host.Outcome State Fault Refusal :=
  .next (s.onLine (fun s =>
    if s.journal.waiters.contains port then s.endUnnumbered port .withdrawn .noJournal none else s)).settle

/-! ## The flash (R173 to R177, R182) -/

/-- FLASH_PROGRAM_END: the append at the head of the queue has been programmed and read back (R173, R174). -/
def execFlashProgramEnd (result : AppendResult) (s : State) : Host.Outcome State Fault Refusal :=
  match s.journal.flash, s.journal.head? with
  | .programming (.append seq bytes), some e => .next (s.appendEnd e seq bytes result).settle
  | _, _ => .next s

/-- The origin of a settlement told that its program has ended: a session that waits for it enters CLOSING; a
completed unit that was due is reported (R156, R175). -/
def State.settlementTold (s : State) (e : SettlementEntry) : State :=
  let s := match e.awaited, e.port with
    | true, some p => s.settlementReported p
    | _, _ => s
  match e.unitDue, e.port with
  | some n, some p => s.unitCompleted n p
  | _, _ => s

/-- The head entry leaves the queue after its settlement's program, which serves the waiters when the entry is a port's:
a start-up settlement is no port's and leaves another part of the queue (R169). In SHUTDOWN nothing is told (R171, R175,
R180). -/
def State.settlementOver (s : State) (e : QueueEntry) : State :=
  let s := s.updJournal (fun j => { j.popHead with flash := .idle })
  if s.isShutdown then s
  else
    match e with
    | .settle x => if x.port.isSome then (s.settlementTold x).serveWaiters else s.settlementTold x
    | _ => s.serveWaiters

/-- SETTLEMENT_PROGRAM_END: the settlement at the head of the queue, or the one attached to the append just
programmed, has been programmed and read back (R173, R175). -/
def execSettlementProgramEnd (result : ReadBack) (s : State) : Host.Outcome State Fault Refusal :=
  match s.journal.flash, s.journal.head? with
  | .programming (.settle bytes), some (.settle ⟨some ref, p, t, a, u⟩) =>
    .next ((s.partProgrammed ref bytes result).settlementOver (.settle ⟨some ref, p, t, a, u⟩)).settle
  | .programming (.attached ref bytes), some e => .next ((s.partProgrammed ref bytes result).settlementOver e).settle
  | _, _ => .next s

/-- ERASE_END (R177). -/
def execEraseEnd (result : EraseResult) (s : State) : Host.Outcome State Fault Refusal :=
  match s.journal.flash with
  | .erasing i => .next (s.eraseDone i result).settle
  | _ => .next s

/-- COUNTER_REBUILD_END: both counters rebuilt, reclaim judged, and the flash resumes (R177, R182). The rebuilt
released-through can lie below records of segments on the erase list. R182 says only that the list waits. That they stay
listed and are erased, their records having been released before the rebuild, is the model's choice (log entry 18). -/
def execCounterRebuildEnd (s : State) : Host.Outcome State Fault Refusal :=
  if s.journal.rebuilding && s.journal.flash = .idle && !s.isShutdown then
    .next (s.updJournal (fun j => { j.rebuilt.judgeReclaim with rebuilding := false })).settle
  else .next s

/-! ## JRN requests (R176, R178, R179) -/

/-- JRN.STATUS (R179). -/
def execJrnStatus (tag : Byte) (params : List Byte) (s : State) : Host.Outcome State Fault Refusal :=
  .next (s.request 10 1 (.bytes 2) false tag params (fun s => s.takeRequest (.status (number params 0 2)))).settle

/-- JRN.READ (R178). -/
def execJrnRead (tag : Byte) (params : List Byte) (s : State) : Host.Outcome State Fault Refusal :=
  .next (s.request 10 2 (.bytes 5) false tag params (fun s =>
    s.takeRequest (.read (number params 0 4) (number params 4 1)))).settle

/-- JRN.RELEASE (R176). -/
def execJrnRelease (tag : Byte) (params : List Byte) (s : State) : Host.Outcome State Fault Refusal :=
  .next (s.request 10 3 (.bytes 4) false tag params (fun s => s.takeRequest (.release (number params 0 4)))).settle

end Sys2Proof.Machine
end

