-- ==== Sys2Proof/Machine/PortRequests.lean ====
section
/-! DEFINITION. The PORT requests (R121, R132 to R138). -/

namespace Sys2Proof.Machine

/-- The port number of a PORT request, or BAD-VALUE (R132). -/
def State.withPort (s : State) (params : List Byte) (k : PortNo → State → State) : State :=
  match below 16 (number params 0 1) with
  | none => s.refuse .badValue
  | some p => k p s

/-- A port's state as a reply reports it. -/
def State.portStateBytes (s : State) (p : PortNo) : List Byte := be 1 (s.port p).state.code

/-! ## PORT.SET (R121) -/

/-- A value raised to the lowest or lowered to the highest of its range (R121). -/
def clamp (lowest highest v : Nat) : Nat := max lowest (min highest v)

/-- The codes of PORT.SET that are not clamped are in range (R121). -/
def settingsOk (params : List Byte) : Bool :=
  number params 1 1 ≤ 1 && number params 2 1 ≤ 7 && number params 3 1 ≤ 1 && number params 4 1 ≤ 1 && number params 5 1 ≤ 1

/-- The settings of PORT.SET as taken, three of them clamped (R121). -/
def Settings.ofRequest (params : List Byte) : Settings where
  enabled := number params 1 1 == 1
  rate := number params 2 1
  msbFirst := number params 3 1 == 1
  swapped := number params 4 1 == 1
  lrc := number params 5 1 == 1
  timeout := clamp 100 5000 (number params 6 2)
  retryLimit := clamp 0 5 (number params 8 1)
  waitLimit := clamp 0 600 (number params 9 2)

/-- Which of the three clamped values were changed: timeout, retry limit, wait limit (R121), as three yes/no bytes: the
model's choice (log entry 19). -/
def clampedBytes (params : List Byte) : List Byte :=
  let g := Settings.ofRequest params
  [boolByte (g.timeout != number params 6 2), boolByte (g.retryLimit != number params 8 1),
    boolByte (g.waitLimit != number params 9 2)]

/-- The port state after PORT.SET (R121). -/
def PortState.afterSet (t : PortState) (enabled : Bool) : PortState :=
  match t, enabled with
  | .off, true => .dormant
  | .dormant, false => .off
  | .paused, false => .off
  | t, _ => t

/-- The port states in which PORT.SET is taken (R121). -/
def PortState.settable : PortState → Bool
  | .off => true
  | .dormant => true
  | .paused => true
  | _ => false

/-- PORT.SET on its port (R121). -/
def State.portSet (params : List Byte) (p : PortNo) (s : State) : State :=
  if !(s.port p).state.settable then s.refuse .portBusy
  else if !settingsOk params then s.refuse .badValue
  else
    let g := Settings.ofRequest params
    let s := s.updPort p (fun q => { q with settings := g, state := q.state.afterSet g.enabled })
    s.answer .ok (g.bytes ++ clampedBytes params ++ s.portStateBytes p)

/-- PORT.SET (R121). -/
def execPortSet (tag : Byte) (params : List Byte) (s : State) : Host.Outcome State Fault Refusal :=
  .next (s.request 9 1 (.bytes 11) false tag params (fun s => s.withPort params (State.portSet params)))

/-! ## PORT.PAUSE, PORT.RESUME, PORT.READMIT (R133, R135, R136) -/

/-- A session in a waiting list when the pause is taken ends UNSERVED (R133, R160). -/
def State.pauseWaiting (s : State) (p : PortNo) : State :=
  match s.session? p with
  | some x => if x.waiting then s.endUnnumbered p .unserved .none none else s
  | none => s

/-- PORT.PAUSE on its port (R133). -/
def State.portPause (p : PortNo) (s : State) : State :=
  match (s.port p).state with
  | .off => s.refuse .wrongState
  | .retired => s.refuse .wrongState
  | .readmitting => s.refuse .wrongState
  | .inSession =>
    let s := (s.updPort p (fun q => { q with state := .pausing })).pauseWaiting p
    s.answer .ok (s.portStateBytes p)
  | .pausing => s.answer .ok (s.portStateBytes p)
  | _ =>
    let s := s.updPort p (fun q => { q with state := .paused })
    s.answer .ok (s.portStateBytes p)

/-- PORT.PAUSE (R133). -/
def execPortPause (tag : Byte) (params : List Byte) (s : State) : Host.Outcome State Fault Refusal :=
  .next (s.request 9 2 (.bytes 1) false tag params (fun s => s.withPort params State.portPause)).settle

/-- PORT.RESUME on its port (R136). -/
def State.portResume (p : PortNo) (s : State) : State :=
  match (s.port p).state with
  | .paused =>
    let s := s.updPort p (fun q => { q with state := .dormant })
    s.answer .ok (s.portStateBytes p)
  | .pausing =>
    let s := s.updPort p (fun q => { q with state := .inSession })
    s.answer .ok (s.portStateBytes p)
  | _ => s.refuse .wrongState

/-- PORT.RESUME (R136). -/
def execPortResume (tag : Byte) (params : List Byte) (s : State) : Host.Outcome State Fault Refusal :=
  .next (s.request 9 3 (.bytes 1) false tag params (fun s => s.withPort params State.portResume))

/-- PORT.READMIT on its port (R135). -/
def State.portReadmit (p : PortNo) (s : State) : State :=
  if (s.port p).state = .retired then
    let s := s.updPort p (fun q => { q with state := .readmitting, timerFrom := s.now })
    s.answer .ok (s.portStateBytes p)
  else s.refuse .wrongState

/-- PORT.READMIT (R135). -/
def execPortReadmit (tag : Byte) (params : List Byte) (s : State) : Host.Outcome State Fault Refusal :=
  .next (s.request 9 4 (.bytes 1) false tag params (fun s => s.withPort params State.portReadmit))

/-! ## PORT.RESET (R137) -/

/-- PORT.RESET on its port: a session ends by how far it has come, the key area is erased and the port takes
its state; the reply reports the ended session's outcome, or none, and the state (R137). -/
def State.portReset (p : PortNo) (s : State) : State :=
  let ended := (s.session? p).isSome
  let s := s.interrupt p .reset .reset
  let s := if ended then s
    else s.updPort p (fun q => { q with keyArea := KeyArea.blank, state := q.state.afterReset })
  s.answer .ok (present 2 (if ended then (s.port p).lastEnd.map endingBytes else none) ++ s.portStateBytes p)

/-- PORT.RESET (R137). -/
def execPortReset (tag : Byte) (params : List Byte) (s : State) : Host.Outcome State Fault Refusal :=
  .next (s.request 9 5 (.bytes 1) false tag params (fun s => s.withPort params State.portReset)).settle

/-! ## PORT.STATUS (R138) -/

/-- A session as PORT.STATUS reports it: phase, maker code, model code, serial, the entry and the profile taken at
greeting, the order number when a unit is held, whether it waits, the device number, the retry count (R138). -/
def Session.statusBytes (x : Session) : List Byte :=
  be 1 x.phase.code ++ be 2 x.terminal.maker ++ be 2 x.terminal.model ++ serialField x.terminal.serial
    ++ present 1 (x.entry.map (fun i => be 1 i.val)) ++ present 1 (x.profile.map (fun c => be 1 c.number.val))
    ++ present 2 (if x.unitHeld then x.order.map (be 2) else none) ++ [boolByte x.waiting]
    ++ present 4 (x.device.map (be 4)) ++ be 1 x.retry

/-- The result of PORT.STATUS (R138). That the line error score is 2 bytes and the retry count 1 is the model's choice
(log entry 19). -/
def Port.statusBytes (q : Port) : List Byte :=
  be 1 q.state.code ++ q.settings.bytes ++ be 2 q.score ++ [boolByte q.degraded] ++ be 2 q.timeoutInForce
    ++ be 2 q.checkErrors ++ be 2 q.cutErrors ++ be 2 q.lengthErrors ++ be 2 q.timeoutErrors ++ be 1 q.lamp.code
    ++ present 2 (q.lastEnd.map endingBytes) ++ present 36 (q.session.map Session.statusBytes)

/-- PORT.STATUS (R138). -/
def execPortStatus (tag : Byte) (params : List Byte) (s : State) : Host.Outcome State Fault Refusal :=
  .next (s.request 9 6 (.bytes 1) false tag params (fun s =>
    s.withPort params (fun p s => s.answer .ok (s.port p).statusBytes)))

end Sys2Proof.Machine
end

