-- ==== Sys2Proof/Machine/Start.lean ====
section
/-! DEFINITION. Resets, start-up, zeroization and the power-fail warning across the blocks (R9, R23 to R26, R45,
R46, R63, R98, R118, R119, R141, R161, R162, R180, R190, R194). -/

namespace Sys2Proof.Machine

/-! ## Zeroization (R23) -/

/-- A slot made EMPTY by zeroization: its holders count stands, and the words other than the state group are
overwritten by the zeroization's end (R11, R23). -/
def Slot.zeroized (x : Slot) : Slot :=
  { Slot.blank with holders := x.holders, mem := { x.mem with state := GroupMem.clean } }

/-- The Key Store's and the engine's part of a zeroization's beginning: every slot EMPTY, the ZEROIZE hold,
TAMPER raised, the job in flight that read a slot key marked (R23, R58). -/
def State.zeroizeStore (s : State) : State :=
  let s := { s with keys := { s.keys with slots := Bank.mapAll Slot.zeroized s.keys.slots, zeroizing := true } }
  let s := s.updEngine (fun e => { e.markIf .zeroized Job.readsSlot with holdZeroize := true })
  s.raiseGlobal .tamper

/-- A SLOT.VERIFY job still waiting is removed and its request answered TAMPERED (R22, R53). -/
def State.zeroizeVerify (s : State) : State :=
  match s.engine.waiting.look custodyRequester with
  | some j =>
    if j.isVerify then
      ((s.updEngine (·.withdraw custodyRequester Job.isVerify)).verifyOver).refuse .tampered
    else s
  | none => s

/-- The Custody Unit's part: presences end, the window closes, the bar clears, the assembly fails and every
component is answered TAMPERED (R45). -/
def State.zeroizeCustody (s : State) : State :=
  let s := (s.endPresence .a).endPresence .b
  let s := (s.closeWindow false).updCustody (fun c => { c with reopenBar := false })
  (s.failAssembly .zeroized).answerIntake .tampered

/-- Every session present ends ZEROIZED (R161). -/
def State.zeroizeSessions (s : State) : State :=
  (List.finRange 16).foldl (fun s p => s.interrupt p .zeroized .natural) s

/-- A zeroization begins (R23). In SHUTDOWN the other blocks have stopped, and only the Key Store and the
engine's marks act (R24, R26). -/
def State.zeroize (s : State) : State :=
  let s := s.zeroizeStore
  if s.isShutdown then s
  else (s.zeroizeVerify.zeroizeCustody.holdZeroized.zeroizeSessions).queueZeroized

/-- A zeroization ends: every slot word is zero with fresh check bits, and the ZEROIZE hold is released
(R23). -/
def State.zeroizeEnds (s : State) : State :=
  let s := { s with keys := { s.keys with
    slots := Bank.mapAll (fun x : Slot => { x with mem := SlotMem.clean }) s.keys.slots, zeroizing := false } }
  s.updEngine (fun e => { e with holdZeroize := false })

/-! ## Power-fail warning (R190) -/

/-- A SLOT.VERIFY whose job is still waiting is answered SHUTDOWN; its job stays waiting (R22, R61). -/
def State.stopVerify (s : State) : State :=
  match s.engine.waiting.look custodyRequester with
  | some j => if j.isVerify && s.keys.verify.isSome then s.verifyOver.refuse .shutdown else s
  | none => s

/-- A journal request still waiting is answered SHUTDOWN (R180, R188). -/
def State.stopRequest (s : State) : State :=
  match s.journal.request with
  | some _ => (s.updJournal (fun j => { j with request := none })).refuse .shutdown
  | none => s

/-- A session at a power-fail warning: the intermediate values of its computation are gone, the issue label, the check
values and load blocks of its items and the bytes of a frame it may have to send again, and its device number survives
in its ISSUE record alone (R79). -/
def Session.valuesErased (x : Session) : Session :=
  { x with
    device := none
    label := none
    items := x.items.map (fun i => { i with check := none, block := none })
    awaited := x.awaited.map (fun a => { a with bytes := [] }) }

/-- A port at a power-fail warning: its key area erased, and the values of its session (R51, R79, R141). -/
def Port.stopped (q : Port) : Port :=
  { q with keyArea := KeyArea.blank, session := q.session.map Session.valuesErased }

/-- What a job was submitted with, erased: its blocks, its header and its check value (R79). -/
def Job.valuesErased (j : Job) : Job :=
  { j with work := match j.work with
    | .derive _ kind dest => .derive [] kind dest
    | .check => .check
    | .wrap _ _ => .wrap [] [] }

/-- The engine at a power-fail warning: held, and the jobs that wait stay waiting without their values (R61, R79; log
entry 28). -/
def Engine.stopped (e : Engine) : Engine :=
  { e with
    waiting := Bank.mapAll (Option.map Job.valuesErased) e.waiting
    kept := Bank.mapAll (Option.map Job.valuesErased) e.kept
    holdShutdown := true }

/-- A power-fail warning is taken: SHUTDOWN, the engine held, the key areas and the values of the sessions and of the jobs
that wait erased, the Journal stopped, the requests that wait answered (R26, R46, R51, R61, R79, R98, R119, R141, R162,
R180, R190). In all else the sessions stand as they are found, as R162 and R141 say, where R79 says that none exists
then: log entry 28. -/
def State.shutDown (s : State) : State :=
  let s := { s with
    link := { s.link with mode := .shutdown }
    agenda := []
    ports := Bank.mapAll Port.stopped s.ports }
  let s := (s.updEngine Engine.stopped).updJournal (fun j => { j with state := .stopped })
  s.stopVerify.stopRequest

/-! ## Start-up (R9, R25, R98, R190) -/

/-- Wrong bits that arose in the protected memory while the part was without power, each in a group of as many words as
the group has; the marker and each of the two counters are one word (section 1.2, R5, R6; log entry 8). -/
def State.applyUpset (s : State) (u : Upset) : State :=
  match u.place with
  | .slot i g => s.updSlot i (fun x => { x with mem := x.mem.upd g (GroupMem.upset (x.groupWords g) u.twoBits) })
  | .profile i g => s.updProfile i (fun x => { x with
      mem := x.mem.upd g (GroupMem.upset (Config.furtherProfileWords g + 1) u.twoBits) })
  | .entry i .control => s.setEntry i { s.entry i with
      control := (s.entry i).control.upset (Config.furtherEntryWords .control + 1) u.twoBits }
  | .entry i .contents => s.setEntry i { s.entry i with
      contents := (s.entry i).contents.upset (Config.furtherEntryWords .contents + 1) u.twoBits }
  | .marker => { s with keys := { s.keys with marker := { s.keys.marker with
      mem := s.keys.marker.mem.upset 1 u.twoBits } } }
  | .nextSequence => s.updJournal (fun j =>
      { j with nextSeq := { j.nextSeq with mem := j.nextSeq.mem.upset 1 u.twoBits } })
  | .releasedThrough => s.updJournal (fun j =>
      { j with released := { j.released with mem := j.released.mem.upset 1 u.twoBits } })

/-- The Journal's volatile state after a reset; the flash and the two counters are kept (head of chapter 9). -/
def Journal.restarted (j : Journal) : Journal :=
  { Journal.atReset with segments := j.segments, nextSeq := j.nextSeq, released := j.released }

/-- Every block at the values it takes at a reset; the protected memory and the flash are kept (R25, R46, R63,
R98, R119, R141, R194). -/
def State.resetBlocks (s : State) (strapHigh tamper pfw : Bool) : State where
  pending := s.pending
  agenda := []
  pins := ⟨strapHigh, tamper, pfw⟩
  link := LinkController.atReset strapHigh
  keys := { KeyStore.atReset with slots := s.keys.slots, marker := s.keys.marker }
  custody := CustodyUnit.atReset
  engine := Engine.atReset
  profiles := Bank.mapAll (fun x : Profile => { x with holders := 0 }) s.profiles
  entries := s.entries
  orders := OrderTable.atReset
  ports := Bank.fill 16 Port.blank
  journal := s.journal.restarted

/-- A lost store cleared: every slot EMPTY, every profile UNDEFINED, every entry cleared, the marker valid,
STORE-LOST raised (R9). -/
def State.clearStore (s : State) : State :=
  State.raiseGlobal { s with
    keys := { s.keys with slots := Bank.fill 32 Slot.blank, marker := ⟨true, GroupMem.clean⟩ }
    profiles := Bank.fill 16 Profile.blank
    entries := Bank.fill 32 Entry.blank } .storeLost

/-- A slot at start-up: an ASSEMBLING one becomes EMPTY, the holders count is 0, and the words of an EMPTY slot are
overwritten with zero and fresh check bits, which clears an unreadable mark that an overwriting cut off had left: the
model's choice, since R25 also says that the marks are kept (log entry 27). -/
def Slot.started (x : Slot) : Slot :=
  if x.state = .assembling || x.state = .empty then Slot.blank else { x with holders := 0 }

/-- The slots of a kept store at start-up: the state group of each of the 32 is read through the error check, then R25
acts. That R25's making an ASSEMBLING slot EMPTY and clearing of the holders counts need that read, which the list of R6
does not name, so that MEMORY-CORRECTED and KEY-DAMAGED can arise from it, is the model's choice (log entry 8). -/
def State.startSlots (s : State) : State :=
  let s := (List.finRange 32).foldl (fun s i => s.readSlotWords i []) s
  { s with keys := { s.keys with slots := Bank.mapAll Slot.started s.keys.slots } }

/-- The store check: whether the store is lost, and the state after (R9). -/
def State.storeCheck (s : State) : Bool × State :=
  let m := s.keys.marker
  let s := s.countCorrected m.mem.found
  if m.valid && !m.mem.double then
    (false, State.startSlots { s with keys := { s.keys with marker := { m with mem := m.mem.corrected } } })
  else (true, s.clearStore)

/-- STARTING up to what waits for an event: SHUTDOWN at once when PFW is found asserted; otherwise the store
check, the start-up scan and the beginning of a tamper zeroization (R9, R23, R181, R183, R190). -/
def State.startUp (s : State) : State :=
  if s.pins.pfw then
    let s := s.shutDown
    if s.pins.tamper then s.zeroize else s
  else
    let (lost, s) := s.storeCheck
    let s := s.scanFlash lost
    (if s.pins.tamper then s.zeroize else s).settle

/-- A power-on reset: what became of the flash operation in progress, of the protected memory, and then the
start (R190). -/
def State.powerOn (s : State) (found : PowerOn) : State :=
  let s := s.updJournal (·.afterFate found.flash)
  let s := if found.batteryHeld then s else { s with keys := { s.keys with marker := ⟨false, GroupMem.clean⟩ } }
  let s := found.upsets.foldl State.applyUpset s
  (s.resetBlocks found.strapHigh found.tamper found.pfw).startUp

/-! ## Meanings -/

/-- POWER_ON_RESET (R190). -/
def execPowerOnReset (found : PowerOn) (s : State) : Host.Outcome State Fault Refusal := .next (s.powerOn found)

/-- STARTING_ENDS: STARTING ends in READY once no zeroization runs; the store check and the scan have been made
by then (R190). -/
def execStartingEnds (s : State) : Host.Outcome State Fault Refusal :=
  .next (if s.link.mode = .starting && !s.keys.zeroizing then { s with link := { s.link with mode := .ready } } else s)

/-- PFW_TAKEN: the input is asserted; it is taken in STARTING and READY, and while a restart has been asked for
it is judged when the part starts again (R190). -/
def execPfwTaken (s : State) : Host.Outcome State Fault Refusal :=
  let s := { s with pins := { s.pins with pfw := true } }
  .next (if s.link.restart ≠ .none || s.isShutdown then s else s.shutDown)

/-- ZEROIZATION_BEGINS: TAMPER changes from deasserted to asserted; a zeroization begins unless one runs, which
the assertion joins (R23, R24). -/
def execZeroizationBegins (s : State) : Host.Outcome State Fault Refusal :=
  if s.pins.tamper then .next s
  else
    let s := { s with pins := { s.pins with tamper := true } }
    if s.keys.zeroizing then .next s else .next s.zeroize.settle

/-- ZEROIZATION_END (R23). -/
def execZeroizationEnd (s : State) : Host.Outcome State Fault Refusal :=
  if s.keys.zeroizing then .next s.zeroizeEnds.settle else .next s

/-- TAMPER_DEASSERTED (R45). -/
def execTamperDeasserted (s : State) : Host.Outcome State Fault Refusal :=
  .next { s with pins := { s.pins with tamper := false } }

/-- SECONDS_TICK: the seconds count rises by one and goes from 0xFFFFFFFF to 0; the part's own timing goes on
(R191). -/
def execSecondsTick (s : State) : Host.Outcome State Fault Refusal :=
  .next { s with link := { s.link with seconds := (s.link.seconds + 1) % 2 ^ 32, clock := s.link.clock + 1 } }

/-- PART_RESTART: once the restart reply has been sent and no flash operation is in progress, every block takes
its power-on values; the strap and the PFW input are read again (R190, R194). -/
def execPartRestart (strapHigh pfw : Bool) (s : State) : Host.Outcome State Fault Refusal :=
  if s.link.restart = .due && s.journal.flash = .idle then
    .next (s.resetBlocks strapHigh s.pins.tamper pfw).startUp
  else .next s

end Sys2Proof.Machine
end

