-- ==== Sys2Proof/Machine/Tables.lean ====
section
/-! DEFINITION. The PROF and MATCH requests (R84 to R88, R93 to R95). -/

namespace Sys2Proof.Machine

/-! ## PROF.WRITE (R84 to R86) -/

/-- An item record of PROF.WRITE as carried (R84). -/
structure ItemRequest where
  source : Nat
  slot : Nat
  kind : Nat
  usage : Nat
  index : Nat
deriving DecidableEq, Repr

/-- The parameters of PROF.WRITE after the profile number (R84). -/
structure ProfileRequest where
  label : List Byte
  transport : Nat
  root : Nat
  freshOnly : Nat
  count : Nat
  items : List ItemRequest
deriving DecidableEq, Repr

/-- An item record read from position `off`. -/
def ItemRequest.read (params : List Byte) (off : Nat) : ItemRequest :=
  ⟨number params off 1, number params (off + 1) 1, number params (off + 2) 1, number params (off + 3) 2,
    number params (off + 5) 1⟩

/-- The parameters read: the heading, then the item records up to the item count; those beyond it are ignored
(R84). -/
def ProfileRequest.read (params : List Byte) : ProfileRequest :=
  let count := number params 12 1
  ⟨field params 1 8, number params 9 1, number params 10 1, number params 11 1, count,
    (List.range (min 4 count)).map (fun k => ItemRequest.read params (13 + 6 * k))⟩

/-- The causes of a refusal at the validation step (R85). -/
inductive ProfileCause where
  | field | role | reserved | repeated | kind | noDerived
deriving DecidableEq, Repr

/-- The cause's code (R200). -/
def ProfileCause.code : ProfileCause → Nat
  | .field => 1
  | .role => 2
  | .reserved => 3
  | .repeated => 4
  | .kind => 5
  | .noDerived => 6

/-- A named slot read and judged: its role, and its kind where one is asked for; a double error the read finds is
acted on first (R6, R85). -/
def State.judgeSlot (s : State) (n : Nat) (role : Role) (kind : Option KeyKind) : Option ProfileCause × State :=
  match below 32 n with
  | none => (some .field, s)
  | some i =>
    let s := s.readSlot i [.identity, .check]
    let x := s.slot i
    (if x.judgedRole ≠ some role then some .role
      else if kind.isSome && x.kind ≠ kind then some .kind
      else none, s)

/-- The heading's fields in range (R85). -/
def ProfileRequest.headingField (r : ProfileRequest) : Bool :=
  r.label.all printable && (1 ≤ r.count && r.count ≤ 4) && r.freshOnly ≤ 1 && r.transport < 32 && r.root < 32

/-- The heading judged: its fields, the transport slot, the root slot (R85). -/
def ProfileRequest.judgeHeading (r : ProfileRequest) (s : State) : Option ProfileCause × State :=
  if !r.headingField then (some .field, s)
  else
    match s.judgeSlot r.transport .transport none with
    | (some c, s) => (some c, s)
    | (none, s) => s.judgeSlot r.root .root none

/-- An item's fields in range (R85). -/
def ItemRequest.fieldOk (i : ItemRequest) : Bool :=
  (i.source == 1 || (i.source == 2 && i.slot < 32)) && (KeyKind.ofCode i.kind).isSome && i.index ≤ 15

/-- An item judged after the items `earlier` (R85). -/
def ItemRequest.judge (i : ItemRequest) (earlier : List ItemRequest) (s : State) : Option ProfileCause × State :=
  if !i.fieldOk then (some .field, s)
  else if i.usage = wkUsage || i.usage = akUsage then (some .reserved, s)
  else if earlier.any (fun e => e.usage == i.usage) then (some .repeated, s)
  else if earlier.any (fun e => e.index == i.index) then (some .repeated, s)
  else if i.source = 2 then s.judgeSlot i.slot .fixed (KeyKind.ofCode i.kind)
  else (none, s)

/-- The items judged in item order, stopping at the first failure: its part and cause (R85). -/
def judgeItems : Nat → List ItemRequest → List ItemRequest → State → Option (Nat × ProfileCause) × State
  | _, _, [], s => (none, s)
  | n, earlier, i :: rest, s =>
    match i.judge earlier s with
    | (some c, s) => (some (n, c), s)
    | (none, s) => judgeItems (n + 1) (earlier ++ [i]) rest s

/-- The contents judged: the heading, the items, and that at least one item is DERIVED (R85). -/
def ProfileRequest.judge (r : ProfileRequest) (s : State) : Option (Nat × ProfileCause) × State :=
  match r.judgeHeading s with
  | (some c, s) => (some (0, c), s)
  | (none, s) =>
    match judgeItems 1 [] r.items s with
    | (some x, s) => (some x, s)
    | (none, s) => (if r.items.any (fun i => i.source == 1) then none else some (0, .noDerived), s)

/-- An item as the profile keeps it. -/
def ItemRequest.item? (i : ItemRequest) : Option Item :=
  match KeyKind.ofCode i.kind, (if i.source = 2 then (below 32 i.slot).map ItemSource.fixed else some .derived) with
  | some k, some src => some ⟨src, k, i.usage, i.index⟩
  | _, _ => none

/-- The contents as the profile keeps them. -/
def ProfileRequest.data (r : ProfileRequest) : ProfileData where
  label := r.label
  transport := (below 32 r.transport).getD 0
  root := (below 32 r.root).getD 0
  freshOnly := r.freshOnly == 1
  items := r.items.filterMap ItemRequest.item?

/-- A slot's check value in PROFILE-WRITTEN: an unreadable mark when its identity or check group cannot be read
(R86). -/
def Slot.profileCheck (x : Slot) : List Byte := readable (x.identityLost || x.checkLost) 3 x.check

/-- The fields of PROFILE-WRITTEN (R86, R207). -/
def profileFields (s : State) (n : Fin 16) (d : ProfileData) : List Byte :=
  let checkOf (i : Item) : List Byte := match i.source with | .fixed k => (s.slot k).profileCheck | .derived => [0, 0, 0, 0]
  be 1 n.val ++ d.label ++ be 1 d.transport.val ++ be 1 d.root.val ++ [boolByte d.freshOnly] ++ be 1 d.items.length
    ++ padTo 24 0 (d.items.flatMap Item.bytes) ++ (s.slot d.transport).profileCheck ++ (s.slot d.root).profileCheck
    ++ padTo 16 0 (d.items.flatMap checkOf)

/-- PROF.WRITE from the window on (R84 to R86). -/
def State.profWrite (n : Fin 16) (r : ProfileRequest) (s : State) : State :=
  s.underWindow (fun pair s =>
    let s := s.readProfileState n
    if 0 < (s.profile n).holders then s.refuse .inUse
    else
      match r.judge s with
      | (some (part, cause), s) => s.answer .badValue (be 1 part ++ be 1 cause.code)
      | (none, s) => s.withPlace (fun s =>
          let before := (s.profile n).state
          let fields := profileFields s n r.data
          let s := s.updProfile n (fun x => { x with state := .defined, contents := some r.data, mem := ProfileMem.clean })
          (s.queueCustody .profileWritten pair fields).answer .ok (be 1 before.code)))

/-- The profile number of a PROF request, or BAD-VALUE. -/
def State.withProfile (s : State) (params : List Byte) (k : Fin 16 → State → State) : State :=
  match below 16 (number params 0 1) with
  | none => s.refuse .badValue
  | some n => k n s

/-- PROF.WRITE (R84). -/
def execProfWrite (tag : Byte) (params : List Byte) (s : State) : Host.Outcome State Fault Refusal :=
  .next (s.request 6 1 (.bytes 37) false tag params (fun s =>
    s.withProfile params (fun n s => s.profWrite n (ProfileRequest.read params)))).settle

/-! ## PROF.DELETE and PROF.READ (R87, R88) -/

/-- PROF.DELETE from the window on (R87). R81 has it read the state group alone, so the label of its record is written
unless the heading is marked unreadable already, and a latent error there is not found: the model's choice (log
entry 27). At which step the state group is read R81 and R87 do not say. It is read before the IN-USE check, where R84 has
PROF.WRITE read it, so a PROF.DELETE refused IN-USE can already have made the profile DAMAGED: the model's choice too
(log entry 27). -/
def State.profDelete (n : Fin 16) (s : State) : State :=
  s.underWindow (fun pair s =>
    let s := s.readProfileState n
    let x := s.profile n
    if 0 < x.holders || 0 < s.ordersNaming n then s.refuse .inUse
    else if x.state = .undefined then s.refuse .wrongState
    else s.withPlace (fun s =>
      let fields := be 1 n.val ++ be 1 x.state.code ++ readable x.mem.heading.unreadable 8 (x.contents.map (·.label))
      let s := s.updProfile n (fun x => { x with state := .undefined, contents := none, mem := ProfileMem.clean })
      (s.queueCustody .profileDeleted pair fields).answer .ok []))

/-- PROF.DELETE (R87). -/
def execProfDelete (tag : Byte) (params : List Byte) (s : State) : Host.Outcome State Fault Refusal :=
  .next (s.request 6 2 (.bytes 1) false tag params (fun s => s.withProfile params State.profDelete)).settle

/-- A profile as PROF.READ reports it; `named` is how many orders name it (R88). The items follow as many as the
item count, each with its own presence byte. With the heading unreadable the item count is not known and no item is
reported, and a profile that a double error in its state group made DAMAGED from UNDEFINED (R82) reports the heading's
fields as absent, since it held none (R80), where R88 has a DAMAGED profile's reported: both are the model's choice (log
entry 27). -/
def Profile.bytes (x : Profile) (n : Fin 16) (named : Nat) : List Byte :=
  let lost := x.mem.heading.unreadable
  let part (w : Nat) (f : ProfileData → List Byte) : List Byte := readable lost w (x.contents.map f)
  let itemBytes (k : Nat) (i : Item) : List Byte := readable (x.mem.get (itemGroup (k + 1))).unreadable 6 (some i.bytes)
  be 1 n.val ++ be 1 x.state.code ++ be 1 x.holders ++ be 1 named
    ++ part 8 (·.label) ++ part 1 (fun d => be 1 d.transport.val) ++ part 1 (fun d => be 1 d.root.val)
    ++ part 1 (fun d => [boolByte d.freshOnly]) ++ part 1 (fun d => be 1 d.items.length)
    ++ (if lost then [] else
        ((x.contents.map (fun d => d.items.zipIdx)).getD []).flatMap (fun (i, k) => itemBytes k i))

/-- PROF.READ (R88). -/
def execProfRead (tag : Byte) (params : List Byte) (s : State) : Host.Outcome State Fault Refusal :=
  .next (s.request 6 3 (.bytes 1) false tag params (fun s => s.withProfile params (fun n s =>
    let s := s.readProfile n
    s.answer .ok ((s.profile n).bytes n (s.ordersNaming n)))))

/-! ## MATCH (R93 to R95) -/

/-- The entry number of a MATCH request, or BAD-VALUE. -/
def State.withEntry (s : State) (params : List Byte) (k : Fin 32 → State → State) : State :=
  match below 32 (number params 0 1) with
  | none => s.refuse .badValue
  | some n => k n s

/-- An entry's control field in a record or report: the target profile. -/
def Entry.targetBytes (e : Entry) : List Byte := be 1 e.target

/-- An entry's match fields in a record or report: match value, mask and serial prefix. -/
def Entry.matchBytes (e : Entry) : List Byte :=
  be 4 e.matchValue.toNat ++ be 4 e.mask.toNat ++ serialStartField e.serialStart

/-- The fields of MATCH-ENABLED and MATCH-DISABLED: the entry, the match group and the control group, each with
its presence byte (R207). -/
def Entry.groupFields (e : Entry) (n : Fin 32) : List Byte :=
  be 1 n.val ++ readable e.contents.unreadable 17 (some e.matchBytes) ++ readable e.targetLost 1 (some e.targetBytes)

/-- MATCH.READ (R95). R95 with R200 speaks of every field of a group that can be unreadable. The match value, the mask, the
serial prefix and the target profile have a presence byte here, and the written, enabled and DAMAGED flags of the control
group have none: the model's choice (log entry 19). -/
def execMatchRead (tag : Byte) (params : List Byte) (s : State) : Host.Outcome State Fault Refusal :=
  .next (s.request 7 1 (.bytes 1) false tag params (fun s => s.withEntry params (fun n s =>
    let s := s.readEntry n true
    let e := s.entry n
    let lost := e.contents.unreadable
    s.answer .ok (be 1 n.val ++ [boolByte e.written, boolByte e.enabled, boolByte e.damaged]
      ++ readable lost 4 (some (be 4 e.matchValue.toNat)) ++ readable lost 4 (some (be 4 e.mask.toNat))
      ++ readable lost 9 (some (serialStartField e.serialStart))
      ++ readable e.targetLost 1 (some e.targetBytes)))))

/-- The contents MATCH.WRITE gives an entry: written, disabled and undamaged (R93). -/
def Entry.ofRequest (params : List Byte) : Entry where
  written := true
  enabled := false
  damaged := false
  target := number params 18 1
  matchValue := BitVec.ofNat 32 (number params 1 4)
  mask := BitVec.ofNat 32 (number params 5 4)
  serialStart := field params 10 (number params 9 1)
  targetLost := false
  control := GroupMem.clean
  contents := GroupMem.clean

/-- The values MATCH.WRITE takes (R93). -/
def matchParamsOk (params : List Byte) : Bool :=
  number params 9 1 ≤ 8 && (field params 10 (number params 9 1)).all printable && number params 18 1 ≤ 15

/-- MATCH.WRITE from the window on (R93). -/
def State.matchWrite (n : Fin 32) (params : List Byte) (s : State) : State :=
  s.underWindow (fun pair s =>
    let s := s.readEntry n false
    let before := s.entry n
    if before.enabled then s.refuse .wrongState
    else if !matchParamsOk params then s.refuse .badValue
    else s.withPlace (fun s =>
      let e := Entry.ofRequest params
      ((s.setEntry n e).queueCustody .matchWritten pair (be 1 n.val ++ e.matchBytes ++ e.targetBytes)).answer .ok
        [boolByte before.written, boolByte before.damaged]))

/-- MATCH.WRITE (R93). -/
def execMatchWrite (tag : Byte) (params : List Byte) (s : State) : Host.Outcome State Fault Refusal :=
  .next (s.request 7 2 (.bytes 19) false tag params (fun s =>
    s.withEntry params (fun n s => s.matchWrite n params))).settle

/-- The enabled flag written (R94). -/
def Entry.withEnabled (e : Entry) (b : Bool) : Entry := { e with enabled := b, control := { e.control with singles := 0 } }

/-- MATCH.ENABLE from the window on (R94). -/
def State.matchEnable (n : Fin 32) (s : State) : State :=
  s.underWindow (fun pair s =>
    let s := s.readEntry n true
    let e := s.entry n
    if !e.written || e.enabled || e.damaged then s.refuse .wrongState
    else s.withPlace (fun s =>
      ((s.setEntry n (e.withEnabled true)).queueCustody .matchEnabled pair (e.groupFields n)).answer .ok []))

/-- MATCH.ENABLE (R94). -/
def execMatchEnable (tag : Byte) (params : List Byte) (s : State) : Host.Outcome State Fault Refusal :=
  .next (s.request 7 3 (.bytes 1) false tag params (fun s => s.withEntry params State.matchEnable)).settle

/-- MATCH.DISABLE after the entry number (R94). -/
def State.matchDisable (n : Fin 32) (s : State) : State :=
  let s := s.readEntry n true
  let e := s.entry n
  if !e.enabled then s.refuse .wrongState
  else s.withPlace (fun s =>
    ((s.setEntry n (e.withEnabled false)).queueCustody .matchDisabled (0, 0) (e.groupFields n)).answer .ok [])

/-- MATCH.DISABLE (R94). -/
def execMatchDisable (tag : Byte) (params : List Byte) (s : State) : Host.Outcome State Fault Refusal :=
  .next (s.request 7 4 (.bytes 1) false tag params (fun s => s.withEntry params State.matchDisable)).settle

end Sys2Proof.Machine
end

