-- ==== Sys2Proof/Machine/Dispatch.lean ====
section
/-! DEFINITION. One arm per command of the part. -/

namespace Sys2Proof.Machine

def exec (i : Instr) (s : State) : Host.Outcome State Fault Refusal :=
  match i with
  | .powerOnReset found => Sys2Proof.Machine.execPowerOnReset found s
  | .startingEnds => Sys2Proof.Machine.execStartingEnds s
  | .pfwTaken => Sys2Proof.Machine.execPfwTaken s
  | .zeroizationBegins => Sys2Proof.Machine.execZeroizationBegins s
  | .zeroizationEnd => Sys2Proof.Machine.execZeroizationEnd s
  | .tamperDeasserted => Sys2Proof.Machine.execTamperDeasserted s
  | .secondsTick => Sys2Proof.Machine.execSecondsTick s
  | .linkBadLength length => Sys2Proof.Machine.execLinkBadLength length s
  | .linkByteGap received => Sys2Proof.Machine.execLinkByteGap received s
  | .linkCrcError body crc => Sys2Proof.Machine.execLinkCrcError body crc s
  | .linkResyncQuiet => Sys2Proof.Machine.execLinkResyncQuiet s
  | .linkOverrunFrame received => Sys2Proof.Machine.execLinkOverrunFrame received s
  | .unknownRequest group verb tag params => Sys2Proof.Machine.execUnknownRequest group verb tag params s
  | .devIdentify tag params => Sys2Proof.Machine.execDevIdentify tag params s
  | .devStatus tag params => Sys2Proof.Machine.execDevStatus tag params s
  | .devTime tag params => Sys2Proof.Machine.execDevTime tag params s
  | .devRestart tag params => Sys2Proof.Machine.execDevRestart tag params s
  | .partRestart strapHigh pfw => Sys2Proof.Machine.execPartRestart strapHigh pfw s
  | .evtRead tag params => Sys2Proof.Machine.execEvtRead tag params s
  | .evtMask tag params => Sys2Proof.Machine.execEvtMask tag params s
  | .slotList tag params => Sys2Proof.Machine.execSlotList tag params s
  | .slotInfo tag params => Sys2Proof.Machine.execSlotInfo tag params s
  | .slotVerify tag params => Sys2Proof.Machine.execSlotVerify tag params s
  | .slotSuspend tag params => Sys2Proof.Machine.execSlotSuspend tag params s
  | .slotRange tag params => Sys2Proof.Machine.execSlotRange tag params s
  | .slotResume tag params => Sys2Proof.Machine.execSlotResume tag params s
  | .slotErase tag params => Sys2Proof.Machine.execSlotErase tag params s
  | .custOpen tag params => Sys2Proof.Machine.execCustOpen tag params s
  | .custCancel tag params => Sys2Proof.Machine.execCustCancel tag params s
  | .custClose tag params => Sys2Proof.Machine.execCustClose tag params s
  | .custStatus tag params => Sys2Proof.Machine.execCustStatus tag params s
  | .engHold tag params => Sys2Proof.Machine.execEngHold tag params s
  | .engResume tag params => Sys2Proof.Machine.execEngResume tag params s
  | .engStatus tag params => Sys2Proof.Machine.execEngStatus tag params s
  | .profWrite tag params => Sys2Proof.Machine.execProfWrite tag params s
  | .profDelete tag params => Sys2Proof.Machine.execProfDelete tag params s
  | .profRead tag params => Sys2Proof.Machine.execProfRead tag params s
  | .matchRead tag params => Sys2Proof.Machine.execMatchRead tag params s
  | .matchWrite tag params => Sys2Proof.Machine.execMatchWrite tag params s
  | .matchEnable tag params => Sys2Proof.Machine.execMatchEnable tag params s
  | .matchDisable tag params => Sys2Proof.Machine.execMatchDisable tag params s
  | .ordPlace tag params => Sys2Proof.Machine.execOrdPlace tag params s
  | .ordAmend tag params => Sys2Proof.Machine.execOrdAmend tag params s
  | .ordHold tag params => Sys2Proof.Machine.execOrdHold tag params s
  | .ordRelease tag params => Sys2Proof.Machine.execOrdRelease tag params s
  | .ordAbort tag params => Sys2Proof.Machine.execOrdAbort tag params s
  | .ordRetire tag params => Sys2Proof.Machine.execOrdRetire tag params s
  | .ordStatus tag params => Sys2Proof.Machine.execOrdStatus tag params s
  | .ordList tag params => Sys2Proof.Machine.execOrdList tag params s
  | .portSet tag params => Sys2Proof.Machine.execPortSet tag params s
  | .portPause tag params => Sys2Proof.Machine.execPortPause tag params s
  | .portResume tag params => Sys2Proof.Machine.execPortResume tag params s
  | .portReadmit tag params => Sys2Proof.Machine.execPortReadmit tag params s
  | .portReset tag params => Sys2Proof.Machine.execPortReset tag params s
  | .portStatus tag params => Sys2Proof.Machine.execPortStatus tag params s
  | .jrnStatus tag params => Sys2Proof.Machine.execJrnStatus tag params s
  | .jrnRead tag params => Sys2Proof.Machine.execJrnRead tag params s
  | .jrnRelease tag params => Sys2Proof.Machine.execJrnRelease tag params s
  | .padPresence line custodian => Sys2Proof.Machine.execPadPresence line custodian s
  | .padWithdraw line => Sys2Proof.Machine.execPadWithdraw line s
  | .padComponent line custodian component stated => Sys2Proof.Machine.execPadComponent line custodian component stated s
  | .padBadFrame line body crc => Sys2Proof.Machine.execPadBadFrame line body crc s
  | .padBadLength line length => Sys2Proof.Machine.execPadBadLength line length s
  | .padFrameGap line => Sys2Proof.Machine.execPadFrameGap line s
  | .padQuiet line => Sys2Proof.Machine.execPadQuiet line s
  | .padFrameUnanswered line => Sys2Proof.Machine.execPadFrameUnanswered line s
  | .presenceLifetimeEnd line => Sys2Proof.Machine.execPresenceLifetimeEnd line s
  | .windowExpiry => Sys2Proof.Machine.execWindowExpiry s
  | .assemblyLimitEnd => Sys2Proof.Machine.execAssemblyLimitEnd s
  | .jobEnd => Sys2Proof.Machine.execJobEnd s
  | .lineActivity port => Sys2Proof.Machine.execLineActivity port s
  | .benchInStep port => Sys2Proof.Machine.execBenchInStep port s
  | .benchCheckError port chars => Sys2Proof.Machine.execBenchCheckError port chars s
  | .benchLengthError port chars => Sys2Proof.Machine.execBenchLengthError port chars s
  | .benchCut port chars => Sys2Proof.Machine.execBenchCut port chars s
  | .responseTimeout port => Sys2Proof.Machine.execResponseTimeout port s
  | .listeningPeriodEnd port => Sys2Proof.Machine.execListeningPeriodEnd port s
  | .cooldownEnd port => Sys2Proof.Machine.execCooldownEnd port s
  | .readmissionEnd port => Sys2Proof.Machine.execReadmissionEnd port s
  | .hello port chars => Sys2Proof.Machine.execHello port chars s
  | .ready port chars => Sys2Proof.Machine.execReady port chars s
  | .ack port chars => Sys2Proof.Machine.execAck port chars s
  | .nak port chars => Sys2Proof.Machine.execNak port chars s
  | .done port chars => Sys2Proof.Machine.execDone port chars s
  | .idleTimeExpiry port => Sys2Proof.Machine.execIdleTimeExpiry port s
  | .waitLimitExpiry port => Sys2Proof.Machine.execWaitLimitExpiry port s
  | .journalWaitExpiry port => Sys2Proof.Machine.execJournalWaitExpiry port s
  | .flashProgramEnd result => Sys2Proof.Machine.execFlashProgramEnd result s
  | .settlementProgramEnd result => Sys2Proof.Machine.execSettlementProgramEnd result s
  | .eraseEnd result => Sys2Proof.Machine.execEraseEnd result s
  | .counterRebuildEnd => Sys2Proof.Machine.execCounterRebuildEnd s
  | .linkReplySent => Sys2Proof.Machine.execLinkReplySent s
  | .linkSkipGap => Sys2Proof.Machine.execLinkSkipGap s

end Sys2Proof.Machine
end

