-- ==== Sys2Proof/Safety.lean ====
section
/-! DEFINITION. What counts as a safe run, and the conditions on a state that every step keeps: the ranges and
the laws that the chapters state of each block's state. -/

namespace Sys2Proof.Machine

/-- The outcome is a next state: the part never stops. -/
def Answers (o : Host.Outcome State Fault Refusal) : Prop := ∃ t, o = .next t

/-! ## Link Controller -/

/-- Ranges of the Link Controller's state: counts that saturate (R187), a 32-bit seconds count (R191), and flag
sets whose five unused bits are 0 (R195, R197, R200). -/
structure LinkController.Ok (l : LinkController) : Prop where
  crc : l.crcErrors ≤ 65535
  form : l.formErrors ≤ 65535
  overruns : l.overruns ≤ 65535
  seconds : l.seconds < 2 ^ 32
  pending : l.pending &&& unusedFlagBits = 0
  mask : l.mask &&& unusedFlagBits = 0

/-! ## Key Store -/

/-- The range record's law: `first ≤ next ≤ last + 1` (R14). -/
def RangeRecord.Ok (r : RangeRecord) : Prop := r.first ≤ r.next ∧ r.next ≤ r.last + 1

/-- A slot's range record: lawful (R14), on a ROOT slot alone, in ACTIVE, SUSPENDED or DAMAGED (R1). -/
structure Slot.Ok (x : Slot) : Prop where
  range : ∀ r, x.range = some r → r.Ok
  root : x.range.isSome → x.role = some .root
  state : x.range.isSome → x.state ≠ .empty ∧ x.state ≠ .assembling

/-- The Key Store: every slot lawful, the memory-corrected counter in its range (R5). -/
structure KeyStore.Ok (k : KeyStore) : Prop where
  slots : ∀ i, (k.slots.look i).Ok
  corrected : k.corrected ≤ 65535

/-! ## Custody Unit -/

/-- The custodian present on a line of the Custody Unit. -/
def CustodyUnit.presentOn (c : CustodyUnit) (l : Line) : Option Nat := (c.line l).presence.map (·.custodian)

/-- Dual control: custodian numbers lie in 1 to 99 (section 2.2), one custodian is not present on both lines
(R29), an open window names the two custodians present (R32, R33), and each line has at most one component in
the intake (R38). -/
structure CustodyUnit.Ok (c : CustodyUnit) : Prop where
  number : ∀ l n, c.presentOn l = some n → 1 ≤ n ∧ n ≤ 99
  different : ∀ n, c.presentOn .a = some n → c.presentOn .b ≠ some n
  window : ∀ w, c.window = some w → c.presentOn .a = some w.custodianA ∧ c.presentOn .b = some w.custodianB
  intake : (c.intake.map (·.line)).Nodup

/-! ## Cipher Engine -/

/-- The Cipher Engine: its count of completed jobs in range (R56), and no SLOT.VERIFY job kept behind another job of
requester 16, since SLOT.VERIFY is refused IN-USE while that requester has one (R22, R52). -/
structure Engine.Ok (e : Engine) : Prop where
  completed : e.completed ≤ 0xFFFFFFFF
  kept : ∀ j, e.kept.look custodyRequester = some j → j.isVerify = false

/-! ## Recognition Table, orders, ports -/

/-- An enabled entry has been written and is not DAMAGED (R90, R94). -/
def Entry.Ok (e : Entry) : Prop := e.enabled = true → e.written = true ∧ e.damaged = false

/-- A DEFINED profile has contents (R80). -/
def Profile.Ok (x : Profile) : Prop := x.state = .defined → x.contents.isSome = true

/-- The sum law of an order's counts, its in_progress being the length of its unit holders list (R99). -/
structure Order.Balanced (o : Order) : Prop where
  sum : o.remaining + o.inProgress + o.completed + o.abandoned = o.quantity
  holders : o.inProgress = o.unitHolders.length

/-- The hold reason is present while the state is HELD and absent in every other state (R99); a QUEUED order has
never had a unit handed out (R100); the counts are balanced (R99); numbers and limits lie in their ranges (section
6.1). -/
structure Order.Ok (o : Order) : Prop where
  hold : o.hold.isSome = true ↔ o.state = .held
  queued : o.state = .queued → o.started = false
  number : 1 ≤ o.number ∧ o.number ≤ 65535
  spoilLimit : o.spoilLimit ≤ 99
  balanced : o.Balanced

/-- The Order Table: at most 24 orders of different numbers, each lawful; the placement counter in its range
(R103). -/
structure OrderTable.Ok (t : OrderTable) : Prop where
  size : t.orders.length ≤ 24
  numbers : (t.orders.map (·.number)).Nodup
  placements : t.placements ≤ 0xFFFFFFFF
  orders : ∀ o ∈ t.orders, o.Ok

/-- The settings lie in their ranges (section 7.1, R121). -/
structure Settings.Ok (g : Settings) : Prop where
  rate : g.rate ≤ 7
  timeout : 100 ≤ g.timeout ∧ g.timeout ≤ 5000
  retry : g.retryLimit ≤ 5
  wait : g.waitLimit ≤ 600

/-- A port's line error score lies between 0 and 256, its counts in their ranges (R127), its settings in
theirs. -/
structure Port.Ok (q : Port) : Prop where
  settings : q.settings.Ok
  score : q.score ≤ 256
  checkErrors : q.checkErrors ≤ 65535
  cutErrors : q.cutErrors ≤ 65535
  lengthErrors : q.lengthErrors ≤ 65535
  timeoutErrors : q.timeoutErrors ≤ 65535

/-! ## Journal -/

/-- The Journal: released-through never exceeds the newest sequence (R167), a program in progress carries the
present next sequence (R167), the custody places outstanding are at most 7 (R168), the warning level and the
failure counts lie in their ranges (R170, R174, R177). -/
structure Journal.Ok (j : Journal) : Prop where
  next : 1 ≤ j.nextSeq.value
  released : j.released.value ≤ j.newest
  program : ∀ seq bytes, j.flash = .programming (.append seq bytes) → seq = j.nextSeq.value
  custodyOut : j.custodyOut ≤ 7
  warnLevel : 16 ≤ j.warnLevel ∧ j.warnLevel ≤ 4096
  programFailures : j.programFailures ≤ 65535
  eraseFailures : j.eraseFailures ≤ 65535

/-! ## The part -/

/-- Every block's state is lawful. -/
structure State.Ok (s : State) : Prop where
  link : s.link.Ok
  keys : s.keys.Ok
  custody : s.custody.Ok
  engine : s.engine.Ok
  profiles : ∀ i, (s.profiles.look i).Ok
  entries : ∀ i, (s.entries.look i).Ok
  orders : s.orders.Ok
  ports : ∀ p, (s.ports.look p).Ok
  journal : s.journal.Ok

/-! ## Terms of statements about requests -/

/-- A good frame is taken as a request and passes step 1 of R188: READY, the receiver HUNTING, no reply owed
(R185, R186). -/
structure State.Takes (s : State) : Prop where
  ready : s.link.mode = .ready
  hunting : s.link.receiver = .hunting
  free : s.link.owed = none

/-- The receiver is HUNTING and no reply is owed, in whatever mode. -/
structure State.Hears (s : State) : Prop where
  hunting : s.link.receiver = .hunting
  free : s.link.owed = none

/-- `s` with the reply to a request owed, its body formed as R189 gives: the codes and the tag echoed, the status,
the two attention fields of `s`, the result; the request stands in the receive buffer. -/
def State.replied (s : State) (group verb tag : Byte) (params : List Byte) (st : Status) (result : List Byte) : State :=
  { s with link := { s.link with
      owed := some ⟨group, verb, tag, some ([group, verb, tag] ++ be 1 st.code ++ be 1 s.link.attentionCount
        ++ be 1 s.link.attentionPort ++ result)⟩
      buffer := group :: verb :: tag :: params } }

/-- `s` with a request in the receive buffer and its reply owed, not yet formed. -/
def State.taken (s : State) (g v tag : Byte) (params : List Byte) : State :=
  { s with link := { s.link with owed := some ⟨g, v, tag, none⟩, buffer := g :: v :: tag :: params } }

/-- `s` with a NAK reply owed (R187): 0xFF in place of group, verb and tag, the attention fields, an empty
result. -/
def State.nakOwed (s : State) (st : Status) : State :=
  { s with link := { s.link with
      owed := some ⟨0xFF, 0xFF, 0xFF, some ([0xFF, 0xFF, 0xFF] ++ be 1 st.code ++ be 1 s.link.attentionCount
        ++ be 1 s.link.attentionPort)⟩ } }

/-- `s` with the flags of the set `v` raised. -/
def State.flagged (s : State) (v : BitVec 88) : State :=
  { s with link := { s.link with pending := s.link.pending ||| v } }

/-- Nothing is left to be taken within a step. -/
def State.Quiet (s : State) : Prop := s.react? = none

/-- No group of the protected memory's records has a latent error or an unreadable mark. -/
structure State.Sound (s : State) : Prop where
  slots : ∀ i, (s.slot i).mem = SlotMem.clean
  profiles : ∀ i, (s.profile i).mem = ProfileMem.clean
  control : ∀ i, (s.entry i).control = GroupMem.clean
  contents : ∀ i, (s.entry i).contents = GroupMem.clean

/-- Every slot's state group is free of errors: all that the dropping of holds reads (R6, R11). -/
def State.StatesSound (s : State) : Prop := ∀ i, (s.slot i).mem.state = GroupMem.clean

/-- The Journal accepts `n` places for a custody request (R168). -/
structure State.RoomFor (s : State) (n : Nat) : Prop where
  working : s.journal.state = .working
  free : 3 + (n : Int) < s.journal.free
  waiters : s.journal.waiters = []
  custody : s.journal.custodyOut + n ≤ 7

/-- The Journal after it has accepted `n` places for custody records and queued the records `rs`: the counts risen
(R168), the records at the end of the run part (R171), the latch as the free count left says (R170). -/
def Journal.accepted (j : Journal) (n : Nat) (rs : List CustodyRecord) : Journal :=
  { j with
    promised := j.promised + n
    custodyOut := j.custodyOut + n
    runQueue := j.runQueue ++ rs.map QueueEntry.custody
    highNoted := decide (j.free - n ≤ j.warnLevel) }

/-- The flag that the fall of the free count by `n` raises: JOURNAL-HIGH when the count left is at or below the
warning level and high noted was clear (R170). -/
def Journal.highFlag (j : Journal) (n : Nat) : BitVec 88 :=
  if j.free - n ≤ j.warnLevel ∧ j.highNoted = false then (EventFlag.global .journalHigh).single else 0

/-- `s'` with the `n` places of a request accepted, its record queued and the flags of `v` raised. -/
def State.recorded (s' : State) (n : Nat) (r : CustodyRecord) (v : BitVec 88) : State :=
  State.flagged { s' with journal := s'.journal.accepted n [r] } (s'.journal.highFlag n ||| v)

/-- The window is OPEN with these two custodians. -/
def State.WindowOf (s : State) (a b : Nat) : Prop := ∃ w, s.custody.window = some w ∧ w.custodianA = a ∧ w.custodianB = b

/-- What a request of the catalogue is to the Link Controller: its codes, the shape of its parameter field, whether
it is served in every mode, its tag and parameters (R188, R199, R200). -/
structure RequestRow where
  group : Byte
  verb : Byte
  shape : Shape
  everyMode : Bool
  tag : Byte
  params : List Byte

/-- The request a command is, if it is one of the catalogue (R199, R200). -/
def requestOf : Instr → Option RequestRow
  | .devIdentify t p => some ⟨1, 1, .bare, true, t, p⟩
  | .devStatus t p => some ⟨1, 2, .bare, true, t, p⟩
  | .devTime t p => some ⟨1, 3, .bytes 4, false, t, p⟩
  | .devRestart t p => some ⟨1, 4, .bare, false, t, p⟩
  | .evtRead t p => some ⟨2, 1, .bare, false, t, p⟩
  | .evtMask t p => some ⟨2, 2, .bytes 11, false, t, p⟩
  | .slotList t p => some ⟨3, 1, .bare, false, t, p⟩
  | .slotInfo t p => some ⟨3, 2, .bytes 1, false, t, p⟩
  | .slotVerify t p => some ⟨3, 3, .bytes 1, false, t, p⟩
  | .slotSuspend t p => some ⟨3, 4, .bytes 1, false, t, p⟩
  | .slotRange t p => some ⟨3, 5, .bytes 15, false, t, p⟩
  | .slotResume t p => some ⟨3, 6, .bytes 1, false, t, p⟩
  | .slotErase t p => some ⟨3, 7, .bytes 1, false, t, p⟩
  | .custOpen t p => some ⟨4, 1, .bytes 15, false, t, p⟩
  | .custCancel t p => some ⟨4, 2, .bare, false, t, p⟩
  | .custClose t p => some ⟨4, 3, .bare, false, t, p⟩
  | .custStatus t p => some ⟨4, 4, .bare, false, t, p⟩
  | .engHold t p => some ⟨5, 1, .bare, false, t, p⟩
  | .engResume t p => some ⟨5, 2, .bare, false, t, p⟩
  | .engStatus t p => some ⟨5, 3, .bare, false, t, p⟩
  | .profWrite t p => some ⟨6, 1, .bytes 37, false, t, p⟩
  | .profDelete t p => some ⟨6, 2, .bytes 1, false, t, p⟩
  | .profRead t p => some ⟨6, 3, .bytes 1, false, t, p⟩
  | .matchRead t p => some ⟨7, 1, .bytes 1, false, t, p⟩
  | .matchWrite t p => some ⟨7, 2, .bytes 19, false, t, p⟩
  | .matchEnable t p => some ⟨7, 3, .bytes 1, false, t, p⟩
  | .matchDisable t p => some ⟨7, 4, .bytes 1, false, t, p⟩
  | .ordPlace t p => some ⟨8, 1, .bytes 6, false, t, p⟩
  | .ordAmend t p => some ⟨8, 2, .bytes 5, false, t, p⟩
  | .ordHold t p => some ⟨8, 3, .bytes 2, false, t, p⟩
  | .ordRelease t p => some ⟨8, 4, .bytes 2, false, t, p⟩
  | .ordAbort t p => some ⟨8, 5, .bytes 2, false, t, p⟩
  | .ordRetire t p => some ⟨8, 6, .bytes 2, false, t, p⟩
  | .ordStatus t p => some ⟨8, 7, .bytes 2, false, t, p⟩
  | .ordList t p => some ⟨8, 8, .bare, false, t, p⟩
  | .portSet t p => some ⟨9, 1, .bytes 11, false, t, p⟩
  | .portPause t p => some ⟨9, 2, .bytes 1, false, t, p⟩
  | .portResume t p => some ⟨9, 3, .bytes 1, false, t, p⟩
  | .portReadmit t p => some ⟨9, 4, .bytes 1, false, t, p⟩
  | .portReset t p => some ⟨9, 5, .bytes 1, false, t, p⟩
  | .portStatus t p => some ⟨9, 6, .bytes 1, false, t, p⟩
  | .jrnStatus t p => some ⟨10, 1, .bytes 2, false, t, p⟩
  | .jrnRead t p => some ⟨10, 2, .bytes 5, false, t, p⟩
  | .jrnRelease t p => some ⟨10, 3, .bytes 4, false, t, p⟩
  | _ => none

/-- How many slots, profiles, recognition entries or ports a request can name by the number that leads its parameters, if
it names one of these and its owner judges that number first (R16, R84, R87, R88, R93 to R95, R132). -/
def namedOf : Instr → Option Nat
  | .slotInfo _ _ | .slotVerify _ _ | .slotSuspend _ _ | .slotRange _ _ | .slotResume _ _ | .slotErase _ _ => some 32
  | .profWrite _ _ | .profDelete _ _ | .profRead _ _ => some 16
  | .matchRead _ _ | .matchWrite _ _ | .matchEnable _ _ | .matchDisable _ _ => some 32
  | .portSet _ _ | .portPause _ _ | .portResume _ _ | .portReadmit _ _ | .portReset _ _ | .portStatus _ _ => some 16
  | _ => none

/-- The request names an order that must be in the table: every ORD request but ORD.PLACE and ORD.LIST (R102). -/
def namesOrder : Instr → Bool
  | .ordAmend _ _ | .ordHold _ _ | .ordRelease _ _ | .ordAbort _ _ | .ordRetire _ _ | .ordStatus _ _ => true
  | _ => false

/-- The command is a reset: POWER_ON_RESET or PART_RESTART. -/
def isReset : Instr → Bool
  | .powerOnReset _ => true
  | .partRestart _ _ => true
  | _ => false

/-! ## Terms of statements about resets and assemblies -/

/-- `u` holds what a power-on reset or a DEV.RESTART puts into every block before start-up runs: the pins as they are
read then, and every volatile register at its reset value (R46, R51, R63, R98, R119, R141, R184, R187, R190, R191,
R194, R195, R197; the heads of chapters 1 and 9). -/
structure ResetFrom (s u : State) (strapHigh tamper pfw : Bool) : Prop where
  queue : u.pending = s.pending
  agenda : u.agenda = []
  pins : u.pins = ⟨strapHigh, tamper, pfw⟩
  link : u.link = ⟨strapHigh, .hunting, [], none, 0, 0, 0, 0, 0, 0, false, 0, .starting, .none⟩
  keys : u.keys.corrected = 0 ∧ u.keys.zeroizing = false ∧ u.keys.verify = none
  custody : u.custody = CustodyUnit.atReset
  engine : u.engine = Engine.atReset
  holders : ∀ n, (u.profile n).holders = 0
  orders : u.orders = OrderTable.atReset
  ports : ∀ p, u.port p = Port.blank
  journal : u.journal = { Journal.atReset with
    segments := u.journal.segments, nextSeq := u.journal.nextSeq, released := u.journal.released }

/-- The protected memory and the journal flash stand in `u` as in `s`. -/
structure StoreKept (s u : State) : Prop where
  slots : ∀ i, u.slot i = s.slot i
  marker : u.keys.marker = s.keys.marker
  profiles : ∀ n, u.profile n = { s.profile n with holders := 0 }
  entries : ∀ n, u.entry n = s.entry n
  segments : u.journal.segments = s.journal.segments
  counters : u.journal.nextSeq = s.journal.nextSeq ∧ u.journal.released = s.journal.released

/-- The slots of `k` as a zeroization's beginning makes them: every one EMPTY with its words zero, its holders count and
the errors of its other word groups standing until the end overwrites them (R11, R23). -/
def KeyStore.emptied (k : KeyStore) : KeyStore :=
  { k with
    slots := Bank.mapAll (fun x : Slot => { Slot.blank with
      holders := x.holders, mem := { x.mem with state := GroupMem.clean } }) k.slots
    zeroizing := true }

/-- The places of a segment as a start-up scan finds them: up to the last that is not erased, the memory of a failed
settlement gone with the reset (R165, R181). -/
def Segment.foundPlaces (g : Segment) : List Place :=
  ((g.places.reverse.dropWhile (fun p => p.kind == 0xFF)).reverse).map (fun p => { p with settleFailed := false })

/-- The state that a header and its places give a segment, before at most one is left ACTIVE (R164, R181, R205): an erase
cut off stands ERASING (log entry 17). -/
def Segment.headerState (g : Segment) : SegmentState :=
  if badMarked g.header then .bad
  else if allErased g.header then (if g.foundPlaces = [] then .erased else .erasing)
  else if openedValid g.header then (if fullMarked g.header ∨ 128 ≤ g.foundPlaces.length then .full else .active)
  else .erasing

/-- The number of the newest record found in a segment, plus one; 0 where it holds none (R167). -/
def Segment.foundNewest (g : Segment) : Nat :=
  (({ g with places := g.foundPlaces } : Segment).records.getLast?.map (fun r => r.1 + 1)).getD 0

/-- Of a segment whose last place holds a record that does not check, the places with that one made void; of any other
the places as they are (R181). -/
def cutOffVoided (ps : List Place) : List Place :=
  match ps.getLast? with
  | some p => if p.isRecord = true ∧ p.sound = false then ps.dropLast ++ [{ p with bytes := 0 :: p.bytes.drop 1 }] else ps
  | none => ps

/-- `j` is what the start-up scan makes of the flash of `k`, the Journal right after a reset: segment states, the record
cut off, the segment opened last, the start-up settlements, the erase list and the warning (R164, R170, R177, R181). The
two counters are stated apart. Of segments whose first sequence marks are equal nothing is said here about which held the
last used place (log entry 18). -/
structure Journal.ScannedFrom (j k : Journal) : Prop where
  header : ∀ i, (j.segments.look i).header = (k.segments.look i).header
  state : ∀ i, (k.segments.look i).headerState ≠ .active → (j.segments.look i).state = (k.segments.look i).headerState
  oneActive : ∀ i, (k.segments.look i).headerState = .active →
    ((j.segments.look i).state = .active ∨ (j.segments.look i).state = .full)
    ∧ ∃ n, (j.segments.look n).state = .active ∧ (k.segments.look i).foundNewest ≤ (k.segments.look n).foundNewest
      ∧ ∀ m, (j.segments.look m).state = .active → m = n
  notHeld : ∀ i, (j.segments.look i).held = false → (j.segments.look i).places = (k.segments.look i).foundPlaces
  earlier : ∀ i n, (j.segments.look n).held = true → (k.segments.look n).foundPlaces ≠ [] →
    firstMark (k.segments.look i).header < firstMark (k.segments.look n).header →
    (j.segments.look i).places = (k.segments.look i).foundPlaces
  last : ∀ i, (j.segments.look i).held = true → (k.segments.look i).foundPlaces ≠ [] →
    (∀ n, n ≠ i → (j.segments.look n).held = true → (k.segments.look n).foundPlaces ≠ [] →
      firstMark (k.segments.look n).header < firstMark (k.segments.look i).header) →
    (j.segments.look i).places = cutOffVoided (k.segments.look i).foundPlaces
  lastOpened : j.lastOpened = ((j.heldRecords.getLast?).map (·.segment)).getD 63
  settlements : j.startQueue = j.pendingRecords.map (fun r =>
    .settle ⟨some ⟨r.seq, r.segment, r.index⟩, none, ⟨.interrupted, .none, ⟨0, false⟩, []⟩, false, none⟩)
  erases : ∀ i, i ∈ j.eraseList ↔ (j.segments.look i).state = .erasing ∨ j.reclaimable (j.segments.look i) = true
  warning : j.highNoted = decide (j.free ≤ j.warnLevel)
  rest : j = { k with
    segments := j.segments, nextSeq := j.nextSeq, released := j.released, lastOpened := j.lastOpened
    startQueue := j.startQueue, eraseList := j.eraseList, highNoted := j.highNoted }

/-- `u` is `s` with its assembly `a` failed for the reason `why` (R4, R42): an ASSEMBLING slot EMPTY, the record and the
intake gone, the ending kept, the assembly's waiting CHECK job removed or the one in flight marked, ASSEMBLY-FAILED
queued into the kept place and raised, and every component of the intake answered on its line, with TAMPERED after a
zeroization and NO-ASSEMBLY else, the counts 0 (log entry 13). That the refusals follow the last part present in the
record is log entry 19. Everything else stands. -/
structure AssemblyFailed (s u : State) (a : Assembly) (why : AssemblyEnd) : Prop where
  slot : u.slot a.slot = if (s.slot a.slot).state = .assembling then { Slot.blank with holders := (s.slot a.slot).holders }
    else s.slot a.slot
  others : ∀ k, k ≠ a.slot → u.slot k = s.slot k
  keys : u.keys = { s.keys with slots := u.keys.slots }
  custody : u.custody = { s.custody with
    lineA := { s.custody.lineA with sent := u.custody.lineA.sent }
    lineB := { s.custody.lineB with sent := u.custody.lineB.sent }
    assembly := none, intake := [], underCheck := false, lastEnding := some ⟨a.slot, why, s.link.seconds⟩ }
  sent : ∀ l, (u.custody.line l).sent = (s.custody.line l).sent ++ (s.custody.intake.filter (fun e => e.line = l)).map
    (fun _ => padFrame ([0x81, 0x02, 0x01] ++ be 1 (if why = .zeroized then PadReason.tampered else .noAssembly).code
      ++ be 1 ((s.present? l).getD 0) ++ [0, 0, 0]))
  engine : u.engine = s.engine.withdraw custodyRequester (fun j => !j.isVerify)
  queued : u.journal = { s.journal with runQueue := s.journal.runQueue ++ [.custody ⟨.assemblyFailed, s.stamp, 0, 0,
    be 1 a.slot.val ++ be 1 why.failureCode ++ (be 1 a.parts.length ++ a.parts.flatMap (fun q => be 1 q.custodian))
      ++ be 1 a.refusals⟩] }
  raised : u.link = { s.link with pending := s.link.pending ||| (EventFlag.global .assemblyFailed).single }
  rest : u.profiles = s.profiles ∧ u.entries = s.entries ∧ u.orders = s.orders ∧ u.ports = s.ports
    ∧ u.pins = s.pins ∧ u.pending = s.pending ∧ u.agenda = s.agenda

/-- A custodian line that hears: READY, its receiver listening for a start byte, its earlier record answered
(R27). -/
structure State.LineHears (s : State) (l : Line) : Prop where
  ready : s.link.mode = .ready
  listening : (s.custody.line l).receiver = .listening
  answered : s.lineBusy l = false

/-- The contents of a PROF.WRITE are ones R85 takes, over slots that can be read. -/
structure State.ProfileValid (s : State) (r : ProfileRequest) : Prop where
  heading : r.headingField = true
  transport : ∃ i : SlotNo, i.val = r.transport ∧ (s.slot i).state ≠ .empty ∧ (s.slot i).role = some .transport
  root : ∃ i : SlotNo, i.val = r.root ∧ (s.slot i).state ≠ .empty ∧ (s.slot i).role = some .root
  items : ∀ i ∈ r.items, i.fieldOk = true ∧ i.usage ≠ wkUsage ∧ i.usage ≠ akUsage ∧
    (i.source = 2 → ∃ k : SlotNo, k.val = i.slot ∧ (s.slot k).state ≠ .empty ∧ (s.slot k).role = some .fixed
      ∧ (s.slot k).kind = KeyKind.ofCode i.kind)
  usages : (r.items.map (·.usage)).Nodup
  indexes : (r.items.map (·.index)).Nodup
  derived : ∃ i ∈ r.items, i.source = 1

/-- The slot numbered `n` has this role, and this kind where one is asked for: an EMPTY slot has no role (R85). -/
def State.SlotFits (s : State) (n : Nat) (role : Role) (kind : Option KeyKind) : Prop :=
  ∃ i : SlotNo, i.val = n ∧ (s.slot i).state ≠ .empty ∧ (s.slot i).role = some role
    ∧ (kind.isSome = true → (s.slot i).kind = kind)

/-- The item `i`, after the items `earlier`, fails the validation of PROF.WRITE with the cause `c`: that of the first
check of R85 that it fails, over slots that can be read. -/
def State.ItemFails (s : State) (earlier : List ItemRequest) (i : ItemRequest) (c : ProfileCause) : Prop :=
  let inRange : Prop := (i.source = 1 ∨ i.source = 2 ∧ i.slot < 32) ∧ (i.kind = 0x21 ∨ i.kind = 0x41 ∨ i.kind = 0x42)
    ∧ i.index ≤ 15
  let reserved : Prop := i.usage = 0x7701 ∨ i.usage = 0x7702
  let repeated : Prop := ∃ e ∈ earlier, e.usage = i.usage ∨ e.index = i.index
  match c with
  | .field => ¬ inRange
  | .reserved => inRange ∧ reserved
  | .repeated => inRange ∧ ¬ reserved ∧ repeated
  | .role => inRange ∧ ¬ reserved ∧ ¬ repeated ∧ i.source = 2 ∧ ¬ s.SlotFits i.slot .fixed none
  | .kind => inRange ∧ ¬ reserved ∧ ¬ repeated ∧ i.source = 2 ∧ s.SlotFits i.slot .fixed none
    ∧ ¬ s.SlotFits i.slot .fixed (KeyKind.ofCode i.kind)
  | .noDerived => False

/-- `s` with the flags of a refusal by the Journal raised: JOURNAL-FULL, and in FAULT JOURNAL-FAULT (R168). -/
def State.placeRefused (s : State) : State :=
  s.flagged ((EventFlag.global .journalFull).single
    ||| if s.journal.state = .fault then (EventFlag.global .journalFault).single else 0)

/-! ## Terms of statements about orders -/

/-- Every order of the table is balanced (R99). -/
def OrderTable.Balanced (t : OrderTable) : Prop := ∀ o ∈ t.orders, o.Balanced

/-- `s` with the order of the number of `o` replaced by `o` after the test of R100: with nothing remaining and
nothing in progress it is ABORTED or DONE, and ORDER-DONE is raised. -/
def State.withTested (s : State) (o : Order) : State :=
  if o.remaining + o.inProgress = 0 then
    State.flagged (s.updOrder o.number (fun _ =>
      { o with state := if o.abortRequested then .aborted else .done, hold := none }))
      (EventFlag.global .orderDone).single
  else s.updOrder o.number (fun _ => o)

/-- The waiting list of the profile of `o` served when `o` is QUEUED or RUNNING with units remaining (R113). -/
def State.servedFor (s : State) (o : Order) : State :=
  if (o.state = .queued ∨ o.state = .running) ∧ 0 < o.remaining then s.serveProfile o.profile else s

/-! ## Terms of statements about ports and sessions -/

/-- The number that the next frame of a session carries (R143). -/
def Session.upcoming (x : Session) : Nat := if x.seq = 255 then 1 else x.seq + 1

/-- The characters of the frame that closes a session: REFUSE with the reason, or CLOSE with outcome and reason
(R130, R143). -/
def State.closingChars (s : State) (p : PortNo) (x : Session) (o : Ending) (r : Reason) : List Byte :=
  if o = .refused then (s.port p).settings.frameChars 0x12 (BitVec.ofNat 8 x.upcoming) (be 1 r.code)
  else (s.port p).settings.frameChars 0x16 (BitVec.ofNat 8 x.upcoming) (be 1 o.code ++ be 1 r.code)

/-- How a session ends (R157): its outcome and reason, the hold reason that its returned unit calls for (R115), whether
it hands over a SPOILED settlement, whether its completed unit is reported only when the program of its settlement
ends (R156), and the state its port takes (R130). -/
structure EndOf where
  outcome : Ending
  reason : Reason
  hold : Option HoldReason
  settles : Bool
  unitLater : Bool
  next : PortState

/-- The end of the session `x`, not COMPLETE or in CLOSING: one that has a device number and does not end COMPLETE
hands over a SPOILED settlement (R157). -/
def Session.endOf (x : Session) (o : Ending) (r : Reason) (hold : Option HoldReason) (next : PortState) : EndOf :=
  ⟨o, r, hold, x.device.isSome && o != .complete, false, next⟩

/-- The SPOILED settlement of a session: the check values of its LOADED items, in item order (R157). -/
def Session.spoiledFor (x : Session) (why : Reason) (time : Stamp) : Settlement :=
  ⟨.spoiled, why, time, (x.items.filter (fun i => i.state == .loaded)).filterMap (·.check)⟩

/-- The run part of the write queue with the settlement `t` of the session `x` of port `p`: attached to its ISSUE append
while that is in the queue, else an entry of its own that names the record, if there is one (R157, R171). -/
def Journal.withSettlement (j : Journal) (p : PortNo) (x : Session) (t : Settlement) : List QueueEntry :=
  let own (e : QueueEntry) : Bool := match e with | .issue part none => part.port == p | _ => false
  if x.record.isNone && j.runQueue.any own then
    j.runQueue.map (fun e =>
      match e with
      | .issue part none => if part.port = p then .issue part (some t) else e
      | _ => e)
  else j.runQueue ++ [.settle ⟨x.record, some p, t, false, none⟩]

/-- The Journal after the end `e` of the session `x` of port `p`: a SPOILED settlement with the check values of the
LOADED items handed over, the port no waiter any more, and a place accepted given back, which serves the waiters (R157,
R168, R169). -/
def State.journalAfter (s : State) (p : PortNo) (x : Session) (e : EndOf) : Journal :=
  let j : Journal := { s.journal with
    runQueue := if e.settles then s.journal.withSettlement p x (x.spoiledFor e.reason s.stamp) else s.journal.runQueue
    waiters := s.journal.waiters.erase p }
  if x.placeAccepted then (State.giveBack { s with journal := j } (.session p)).journal else j

/-- The Order Table after the end `e` of the session `x` of port `p`: the port in no waiting list, and a unit held
completed, spoiled or returned (R114 to R117). What these three do to an order and its waiting list is stated in
`Obligations.UnitsServed`. -/
def State.ordersAfter (s : State) (p : PortNo) (x : Session) (e : EndOf) : OrderTable :=
  let left : State := { s with orders := { s.orders with waiting := Bank.mapAll (fun l => l.erase p) s.orders.waiting } }
  match x.unitHeld, x.order, e.outcome with
  | true, some n, .complete => if e.unitLater then left.orders else (left.unitCompleted n p).orders
  | true, some n, .spoiled => (left.unitSpoiled n p).orders
  | true, some n, _ => (left.unitReturned n p e.hold).orders
  | _, _, _ => left.orders

/-- `u` is a state in which the session `x` that `s` has on port `p` has ended as `e` says (R130, R157): the closing
frame is sent, the key area erased, the session discarded, SESSION-END raised, its engine job removed or marked, its
settlement handed over and its place given back, its holds on slots and on its profile dropped, its unit reported. -/
structure SessionOver (s u : State) (p : PortNo) (x : Session) (e : EndOf) : Prop where
  port : u.port p = { s.port p with
    state := e.next, session := none, keyArea := KeyArea.blank, lastEnd := some (e.outcome, e.reason), timerFrom := s.now
    sent := (s.port p).sent ++ [s.closingChars p x e.outcome e.reason] }
  others : ∀ q, q ≠ p → u.port q = { s.port q with session := (u.port q).session }
  flag : u.flagPending (.port .sessionEnd p) = true
  link : u.link = { s.link with pending := u.link.pending }
  engine : u.engine = s.engine.withdraw (portRequester p) (fun _ => true)
  slots : ∀ i, u.slot i = { s.slot i with holders := (s.slot i).holders - x.slotHolds.count i }
  keys : u.keys = { s.keys with slots := u.keys.slots }
  orders : u.orders = s.ordersAfter p x e
  journal : u.journal = s.journalAfter p x e
  profiles : ∀ n, u.profile n = { s.profile n with holders := (s.profile n).holders -
    (if x.profileHeld && x.profile.map ProfileCopy.number == some n then 1 else 0) }
  rest : u.custody = s.custody ∧ u.entries = s.entries ∧ u.pins = s.pins ∧ u.pending = s.pending

/-- The Journal programs the settlement of port `p` now, so its content can no longer change (R156). -/
def Journal.Settles (j : Journal) (p : PortNo) : Prop :=
  ∃ bytes e, j.flash = .programming (.settle bytes) ∧ j.head? = some (.settle e) ∧ e.port = some p

/-- `s` with the settlement that port `p` has in the run part of the write queue changed by `f`. -/
def State.withSettle (s : State) (p : PortNo) (f : SettlementEntry → SettlementEntry) : State :=
  { s with journal := { s.journal with runQueue := s.journal.runQueue.map (fun e =>
      match e with
      | .settle x => if x.port = some p then .settle (f x) else e
      | _ => e) } }

/-- `u` is what cutting off the session `x` of port `p`, which is in SETTLING, makes of `s`. Before the program of its
settlement has begun, the settlement is changed to SPOILED with the reason of the cause and the session ends SPOILED.
After that the session ends COMPLETE, and its unit is due when the program ends (R156). -/
def State.CutInSettling (s u : State) (p : PortNo) (x : Session) (r : Reason) (next : PortState) : Prop :=
  (s.journal.Settles p → SessionOver (s.withSettle p (fun e => { e with awaited := false, unitDue := x.order })) u p x
    ⟨.complete, .none, none, false, true, next⟩)
  ∧ (¬ s.journal.Settles p → SessionOver
    (s.withSettle p (fun e => { e with awaited := false, content := { e.content with outcome := .spoiled, reason := r } }))
    u p x ⟨.spoiled, r, none, false, false, next⟩)

/-- The state a port takes at the end of a session that neither PORT.RESET nor a retirement ended (R130). -/
def State.stateAfter (s : State) (p : PortNo) : PortState := if (s.port p).state = .pausing then .paused else .cooldown

/-- A frame that expects an answer sent for the session of port `p`, which is then `x` awaiting the answer: the
number moved on by one, the retry count 0, the wait as long as the timeout in force (R124 to R126, R143). -/
def State.frameSent (s : State) (p : PortNo) (x : Session) (kind : FrameType) (payload : List Byte) : State :=
  let chars := (s.port p).settings.frameChars (BitVec.ofNat 8 kind.code) (BitVec.ofNat 8 x.upcoming) payload
  s.updPort p (fun q => { q with
    sent := q.sent ++ [chars]
    session := some { x with
      seq := x.upcoming, retry := 0, idleFrom := none
      awaited := some ⟨kind, x.upcoming, chars, (s.port p).timeoutInForce⟩ } })

/-- The LOAD of the first item of `x` that is not LOADED, or COMMIT when all are, `x` then in COMMITTING (R154,
R155). -/
def State.loadSent (s : State) (p : PortNo) (x : Session) : State :=
  match x.items.findIdx? (fun e => !(e.state == .loaded)) with
  | some n => s.frameSent p x .load (x.label.getD [] ++ ((x.items[n]?).bind (·.block)).getD [])
  | none => s.frameSent p { x with phase := .committing } .commit (x.label.getD [] ++ be 1 x.items.length)

/-- Characters on the line of port `p` that the port decodes, in step, and judges as `j` (R123). -/
structure State.Receives (s : State) (p : PortNo) (chars : List Byte) (j : Judged) : Prop where
  running : s.link.mode ≠ .shutdown
  decodes : (s.port p).decodes = true
  inStep : (s.port p).inStep = true
  judged : (s.port p).settings.judge chars = j

/-- Characters that make the good frame `f`, which answers the frame that the session `x` of port `p` awaits an
answer to (R125). -/
structure State.Answered (s : State) (p : PortNo) (chars : List Byte) (x : Session) (f : BenchFrame) : Prop where
  frame : s.Receives p chars (.good f)
  session : s.session? p = some x
  answer : ∃ a, x.awaited = some a ∧ a.kind.answeredBy f.type = true ∧ f.seq.toNat = a.seq

/-- The session once its answer is taken: nothing awaited, the idle time starting (R125, R143). -/
def Session.unawaited (x : Session) (now : Nat) : Session := { x with awaited := none, idleFrom := some now }

/-- `s` with an answer taken on port `p`: the good frame scored (R127), the session no longer waiting. -/
def State.scoredAnswer (s : State) (p : PortNo) (x : Session) : State :=
  s.updPort p (fun q => { q with score := q.score - 1, session := some (x.unawaited s.now) })

/-- The line error a command is on its port, if it is one: a CHECK, LENGTH or CUT of a frame decoded in step, or a
TIMEOUT of a wait for an answer (R123, R125). -/
def State.lineErrorOf (s : State) : Instr → Option (PortNo × LineError)
  | .benchCheckError p chars =>
    if (s.port p).decodes && (s.port p).inStep && decide ((s.port p).settings.judge chars = .badCheck)
    then some (p, .check) else none
  | .benchLengthError p chars =>
    if (s.port p).decodes && (s.port p).inStep && decide ((s.port p).settings.judge chars = .badLength)
    then some (p, .length) else none
  | .benchCut p chars =>
    if (s.port p).decodes && (s.port p).inStep && decide ((s.port p).settings.judge chars = .begun)
    then some (p, .cut) else none
  | .responseTimeout p => if ((s.session? p).bind (·.awaited)).isSome then some (p, .timeout) else none
  | _ => none

/-- A port after a line error: 8 added to the score up to 256, the count of its kind raised, out of step after a
LENGTH error (R123, R127). -/
def Port.afterError (q : Port) (k : LineError) : Port :=
  { q with
    score := min 256 (q.score + 8)
    inStep := if k = .length then false else q.inStep
    checkErrors := if k = .check then min 65535 (q.checkErrors + 1) else q.checkErrors
    cutErrors := if k = .cut then min 65535 (q.cutErrors + 1) else q.cutErrors
    lengthErrors := if k = .length then min 65535 (q.lengthErrors + 1) else q.lengthErrors
    timeoutErrors := if k = .timeout then min 65535 (q.timeoutErrors + 1) else q.timeoutErrors }

/-- `s` after a line error on port `p`, PORT-WARNING raised when the score rises to 96 (R127, R128). -/
def State.afterError (s : State) (p : PortNo) (k : LineError) : State :=
  State.flagged (s.setPort p ((s.port p).afterError k))
    (if (s.port p).score < 96 ∧ 96 ≤ (s.port p).score + 8 then (EventFlag.port .warning p).single else 0)

/-- How a session that is neither SETTLING nor CLOSING ends from outside: SPOILED with a device number, WITHDRAWN
without (R134, R137, R158). -/
def Session.cutOff (x : Session) : Ending := if x.device.isSome then .spoiled else .withdrawn

/-- The outcome and reason of the session `x` of port `p` when a cause from outside with the reason `r` ends it: COMPLETE in
CLOSING (log entry 15) and, in SETTLING, once the program of its settlement has begun; else SPOILED with a device number
and WITHDRAWN without (R156 to R161). -/
def State.cutEnd (s : State) (p : PortNo) (x : Session) (r : Reason) : Ending × Reason :=
  match x.phase with
  | .closing => (.complete, .none)
  | .settling => if s.journal.settleBegun p then (.complete, .none) else (.spoiled, r)
  | _ => (x.cutOff, r)

/-- The run part `q` of the write queue of `s` after the session of port `p`, if it has one, was ended from outside with
the reason `r`: in SETTLING its settlement is changed to SPOILED, or if its program has begun the unit is due when that
ends; before that a session with a device number hands over a SPOILED settlement (R156, R157). -/
def State.cutSettlement (s : State) (r : Reason) (q : List QueueEntry) (p : PortNo) : List QueueEntry :=
  let j : Journal := { s.journal with runQueue := q }
  match s.session? p with
  | none => q
  | some x =>
    match x.phase with
    | .closing => q
    | .settling => (j.updSettle p (fun e =>
        if s.journal.settleBegun p then { e with awaited := false, unitDue := x.order }
        else { e with awaited := false, content := { e.content with outcome := .spoiled, reason := r } })).runQueue
    | _ => if x.device.isSome then j.withSettlement p x (x.spoiledFor r s.stamp) else q

/-- The RESULTs with which a zeroization answers the components of line `l` in the intake: a COMPONENT refused TAMPERED,
nobody present and the counts 0 (R45, R204; log entry 13). -/
def State.intakeTampered (s : State) (l : Line) : List (List Byte) :=
  (s.custody.intake.filter (fun e => e.line = l)).map (fun _ => padFrame [0x81, 0x02, 0x01, 9, 0, 0, 0, 0])

/-- `s` with the range record `r` of the root slot of `c` advanced for the session `x` of port `p`: next risen by one,
warned set at the warning level with RANGE-LOW, RANGE-EXHAUSTED at the last number; the session has its number and its
issue label, and its ISSUE record stands in the write queue in the accepted place (R14, R64, R149). -/
def State.numbered (s : State) (p : PortNo) (x : Session) (c : ProfileCopy) (r : RangeRecord) : State :=
  let root := c.contents.root
  let left := r.last - r.next
  let part : IssuePart := ⟨p, x.order.getD 0, c.number, r.keySet, r.next, x.terminal.maker, x.terminal.model,
    x.terminal.firmware, x.terminal.serial, s.stamp⟩
  let t := s.setSlot root { s.slot root with
    range := some { r with next := r.next + 1, warned := r.warned || decide (left ≤ r.warn) } }
  let u := t.updPort p (fun q => { q with session := some { x with
    device := some r.next, label := some (be 4 r.keySet ++ be 4 r.next ++ [0, 0]), placeAccepted := false } })
  State.flagged { u with journal := { s.journal with runQueue := s.journal.runQueue ++ [.issue part none] } }
    ((if r.warned = false ∧ left ≤ r.warn then (EventFlag.global .rangeLow).single else 0)
      ||| if left = 0 then (EventFlag.global .rangeExhausted).single else 0)

/-- `u` is what the allocation asked for by the session `x` of port `p`, with its place accepted and the profile copy
`c`, makes of `s`: the number taken, or the session ended by the reason of the refusal (R14, R15, R149). -/
def State.Allocates (s u : State) (p : PortNo) (x : Session) (c : ProfileCopy) : Prop :=
  let ends (r : Reason) (h : HoldReason) : Prop :=
    SessionOver s u p x (x.endOf .withdrawn r (some h) (s.stateAfter p))
  if (s.slot c.contents.root).state ≠ .active then ends .keyUnavailable .keyUnavailable
  else match (s.slot c.contents.root).range with
    | none => ends .range .rangeExhausted
    | some r => if r.last < r.next then ends .range .rangeExhausted else u = s.numbered p x c r

/-- `s` with the session `x` of port `p`, in DERIVING, going on: its next job submitted, or with every item WRAPPED the
session in LOADING and its first LOAD sent, unless a READY is awaited, until which it stays in DERIVING (R143, R152,
R154). -/
def State.derives (s : State) (p : PortNo) (x : Session) : State :=
  match x.nextJob p (s.port p).keyArea with
  | some j => { s.updPort p (fun q => { q with session := some x }) with engine := s.engine.submit j }
  | none =>
    if x.awaited.isSome then s.updPort p (fun q => { q with session := some x })
    else s.loadSent p { x with phase := .loading }

/-! ## Terms of statements about the Journal -/

/-- A segment with its next place used: FULL when it was the last, with the full mark if that verified (R164, R165). -/
def Segment.filled (g : Segment) (bytes : List Byte) (marked : Bool) : Segment :=
  if g.places.length + 1 < 128 then { g with places := g.places ++ [⟨bytes, false⟩] }
  else { g with places := g.places ++ [⟨bytes, false⟩], state := .full
                header := if marked then withFullMark g.header else g.header }

/-- The Journal after the append at the head of its queue has been programmed with the bytes into segment `i`: the
place used, its promise ended, that of a custody request also in the count of places outstanding, next sequence risen,
the head gone, the flash idle; a segment that became FULL is judged for reclaim (R173, R177). -/
def Journal.appended (j : Journal) (i : Fin 64) (seq : Nat) (bytes : List Byte) (custody marked : Bool) : Journal :=
  let k : Journal := { j.popHead with
    segments := j.segments.put i ((j.segments.look i).filled bytes marked)
    promised := j.promised - 1
    custodyOut := if custody then j.custodyOut - 1 else j.custodyOut
    nextSeq := ⟨seq + 1, GroupMem.clean⟩
    headFailed := false
    flash := .idle }
  if (j.segments.look i).places.length + 1 < 128 then k else k.judgeReclaim

/-- `s` after the append `e` at the head of its queue has verified in the next place of segment `i` (R173). The session
of an ISSUE record is told its number and place, and the waiters are served as its entry has left the queue (R169); a
settlement attached is programmed next, as the second program of the entry; a custody record leaves the queue. -/
def State.appended (s : State) (e : QueueEntry) (i : Fin 64) (seq : Nat) (bytes : List Byte) (marked : Bool) : State :=
  let ref : RecordRef := ⟨seq, i, (s.journal.segments.look i).places.length⟩
  match e with
  | .issue part none =>
    State.serveWaiters (State.tell (State.updSession { s with journal := s.journal.appended i seq bytes false marked }
      part.port (fun x => { x with record := some ref })) (.issueProgrammed part.port))
  | .issue _ (some t) => { s with journal := { s.journal.appended i seq bytes false marked with
      startQueue := s.journal.startQueue, runQueue := s.journal.runQueue
      flash := .programming (.attached ref (settlementBytes t)) } }
  | .custody r => { s with journal := s.journal.appended i seq bytes (r.type != .zeroized) marked }
  | .settle _ => s

/-- `s` with the next place of segment `i`, not its last, made void after a failed read-back that left the bytes `left`:
the failure counted, and the warning judged by the free count left (R170, R174). -/
def State.placeVoided (s : State) (i : Fin 64) (left : List Byte) : State :=
  let g := s.journal.segments.look i
  let j : Journal := { s.journal with
    segments := s.journal.segments.put i { g with places := g.places ++ [⟨0 :: left.drop 1, false⟩] }
    programFailures := min 65535 (s.journal.programFailures + 1) }
  State.flagged { s with journal := { j with highNoted := decide (j.free ≤ j.warnLevel) } } (j.highFlag 0)

/-- `s` with segment `i` opened for the record numbered `seq`: its opened mark programmed and the segment ACTIVE
(R164, R205). -/
def State.segmentOpened (s : State) (i : Fin 64) (seq : Nat) : State :=
  let mark := 0x5A :: be 4 seq
  { s with journal := { s.journal with
    segments := s.journal.segments.put i { s.journal.segments.look i with
      header := mark ++ crcBytes mark ++ List.replicate 9 0xFF, state := .active }
    lastOpened := i } }

/-- `s` after the settlement at the head of the queue has been programmed with the bytes into its record's place, its
entry gone and the flash idle. One that does not verify leaves the part DAMAGED, the failure counted and JOURNAL-FAULT
raised (R175). -/
def State.settlementDone (s : State) (ref : RecordRef) (bytes : List Byte) : ReadBack → State
  | .ok => { s with journal := { (s.journal.writePart ref bytes false).popHead with flash := .idle } }
  | .fails left => State.flagged { s with journal := { (s.journal.writePart ref left true).popHead with
      flash := .idle, programFailures := min 65535 (s.journal.programFailures + 1) } }
      (EventFlag.global .journalFault).single

end Sys2Proof.Machine
end

