-- ==== Sys2Proof/Certificates/Slice0/Obligations.lean ====
section
/-! DEFINITION. The statements about this model. -/

open Sys2Proof Sys2Proof.Machine

/-! ## Steps and runs -/

/-- A step takes the command at the front of the queue and runs it on the state with the queue's rest. With no
command waiting the state stands: the model's choice, log entry 3. -/
def Obligations.StepRunsFront : Prop :=
  (∀ (s : State) (c : Instr) (rest : List Instr), s.pending = c :: rest → step s = exec c { s with pending := rest })
    ∧ ∀ s : State, s.pending = [] → step s = .next s

/-- Right after reset every block's state is lawful, and the part is in STARTING with its receiver HUNTING, no
reply owed, no flag pending, every flag unmasked, the three link error counts 0, and the seconds count 0 and not
set (R187, R190, R191, R194, R195, R197). -/
def Obligations.ResetLawful : Prop :=
  State.reset.Ok ∧ State.reset.link.mode = .starting ∧ State.reset.link.receiver = .hunting
    ∧ State.reset.link.owed = none ∧ State.reset.link.buffer = []
    ∧ (∀ f, State.reset.flagPending f = false) ∧ State.reset.link.mask = 0
    ∧ State.reset.link.crcErrors = 0 ∧ State.reset.link.formErrors = 0 ∧ State.reset.link.overruns = 0
    ∧ State.reset.stamp = ⟨0, false⟩

/-- Every step keeps every block's state lawful: the range records (R14), dual control at the window and the presences
(R29, R32, R33), one component a line in the intake (R38), no SLOT.VERIFY job kept behind another job of requester 16
(R22, R52), holds, counts and numbers of the orders (R99, R100, R103), scores and settings (R121, R127),
released-through at or below the newest sequence (R167), the custody places outstanding (R168), the unused bits of the
flag sets (R200). -/
def Obligations.StepKeepsLawful : Prop :=
  ∀ s t : State, s.Ok → step s = .next t → t.Ok

/-- Every command answers a next state in every state; what that state is, the other statements say. That an event which
comes outside its occasion, or with operands its row does not have, answers one too is the model's choice, log
entry 1. -/
def Obligations.EveryCommandAnswers : Prop := ∀ (c : Instr) (s : State), Answers (exec c s)

/-- A flag once pending stays pending until EVT.READ or a reset (R195). -/
def Obligations.FlagsStayPending : Prop :=
  ∀ (c : Instr) (s t : State) (f : EventFlag), isReset c = false → (∀ tag params, c ≠ .evtRead tag params) →
    exec c s = .next t → s.flagPending f = true → t.flagPending f = true

/-- SHUTDOWN ends only at power-on reset: no other command leaves it, and none makes a restart due in it (R190,
R194). -/
def Obligations.ShutdownLasts : Prop :=
  ∀ (c : Instr) (s t : State), (∀ found, c ≠ .powerOnReset found) → s.link.mode = .shutdown → s.link.restart = .none →
    exec c s = .next t → t.link.mode = .shutdown ∧ t.link.restart = .none

/-- A port's settings change at PORT.SET for that port and at resets only, and the seconds count and its flag at
SECONDS_TICK, DEV.TIME and resets only (R121, R191). -/
def Obligations.SettingsAndTimeKept : Prop :=
  ∀ (c : Instr) (s t : State), isReset c = false → exec c s = .next t →
    (∀ p : PortNo, (∀ tag params, c = .portSet tag params → number params 0 1 ≠ p.val) →
      (t.port p).settings = (s.port p).settings)
    ∧ (c ≠ .secondsTick → (∀ tag params, c ≠ .devTime tag params) → t.stamp = s.stamp)

/-! ## The workstation link -/

/-- The link receiver. A FORM and a CRC error each raise their count, saturating, and LINK-ERROR. A length out of range
sends the receiver to RESYNC with no reply yet, and the quiet that ends RESYNC makes a NAK-FORM owed; a gap and a wrong
CRC are answered by a NAK at once. An overrun frame is counted and skipped by its length, or ends at once when that is
out of range; a gap ends the skipping. A reply sent is owed no more, which makes a restart asked for due (R185, R186,
R187, R194). That a FORM error is counted when it is detected and not when the quiet is reached, and what the receive
buffer keeps, are the model's choices, log entry 12. -/
def Obligations.LinkReceiver : Prop :=
  ∀ s : State,
    (s.Hears →
      (∀ n : BitVec 16, n.toNat < 4 ∨ 1024 < n.toNat →
        exec (.linkBadLength n) s = .next (State.flagged
          { s with link := { s.link with formErrors := min 65535 (s.link.formErrors + 1), receiver := .resync } }
          (EventFlag.global .linkError).single))
      ∧ (∀ got : List Byte, exec (.linkByteGap got) s = .next (State.nakOwed (State.flagged
          { s with link := { s.link with formErrors := min 65535 (s.link.formErrors + 1), buffer := got.drop 2 } }
          (EventFlag.global .linkError).single) .nakForm))
      ∧ ∀ (body : List Byte) (crc : BitVec 16), 4 ≤ body.length → body.length ≤ 1024 →
        crc ≠ crc16 (be 2 body.length ++ body) →
        exec (.linkCrcError body crc) s = .next (State.nakOwed (State.flagged
          { s with link := { s.link with crcErrors := min 65535 (s.link.crcErrors + 1), buffer := body } }
          (EventFlag.global .linkError).single) .nakCrc))
    ∧ (s.link.receiver = .resync → s.link.owed = none →
      exec .linkResyncQuiet s = .next (State.nakOwed { s with link := { s.link with receiver := .hunting } } .nakForm))
    ∧ (s.link.receiver = .hunting → s.link.owed.isSome = true → ∀ got : List Byte,
      exec (.linkOverrunFrame got) s = .next (State.flagged
        { s with link := { s.link with
            overruns := min 65535 (s.link.overruns + 1)
            receiver := if 2 ≤ got.length ∧ (number got 0 2 < 4 ∨ 1024 < number got 0 2
              ∨ number got 0 2 + 4 ≤ got.length) then .hunting else .skipping } }
        (EventFlag.global .linkError).single))
    ∧ (s.link.receiver = .skipping →
      exec .linkSkipGap s = .next { s with link := { s.link with receiver := .hunting } })
    ∧ ∀ (o : Owed) (body : List Byte), s.link.owed = some o → o.body = some body →
      exec .linkReplySent s = .next { s with link := { s.link with
        owed := none, restart := if s.link.restart = .replyOwed then .due else s.link.restart } }

/-- The Link Controller's checks of every request of the catalogue, in their order, the first that fails giving the
status and the request going no further. Its owner's first checks follow: a slot, profile, entry or port number out of
range and the order number 0 are refused BAD-VALUE, an order that is not in the table NOT-FOUND, and every SLOT request
while a zeroization runs TAMPERED (R16, R84, R87, R88, R93 to R95, R102, R132). A good frame whose group and verb name
no request gets the mode's status in STARTING and SHUTDOWN, and BAD-REQUEST in READY, with no other effect. A request
whose frame begins while a reply is owed is an overrun frame: it has no effect but the count and LINK-ERROR, and the
reply owed stands (R186, R187, R188). The parameter lengths are those of R200 as log entry 20 reads them, and JRN.READ's
maximum of 1 byte is log entry 19, the model's choice. -/
def Obligations.RequestChecks : Prop :=
  (∀ (c : Instr) (r : RequestRow) (s : State), requestOf c = some r → s.Quiet →
    (s.Hears →
      let answered (st : Status) : State := s.replied r.group r.verb r.tag r.params st []
      (r.everyMode = false → s.link.mode = .starting → exec c s = .next (answered .starting))
      ∧ (r.everyMode = false → s.link.mode = .shutdown → exec c s = .next (answered .shutdown))
      ∧ (r.everyMode = true ∨ s.link.mode = .ready →
        (r.params.length ≠ r.shape.length → exec c s = .next (answered .badLength))
        ∧ (r.params.length = r.shape.length → r.shape = .bare → r.params ≠ [0] → exec c s = .next (answered .badValue))))
    ∧ (s.link.receiver = .hunting → s.link.owed.isSome = true →
      exec c s = .next (State.flagged { s with link := { s.link with overruns := min 65535 (s.link.overruns + 1) } }
        (EventFlag.global .linkError).single))
    ∧ (s.Takes → r.params.length = r.shape.length →
      let refused (st : Status) : Prop := exec c s = .next (s.replied r.group r.verb r.tag r.params st [])
      let named := number r.params 0 1
      let order := number r.params 0 2
      (∀ n, namedOf c = some n → n ≤ named → refused .badValue)
      ∧ (namesOrder c = true → order = 0 → refused .badValue)
      ∧ (namesOrder c = true → order ≠ 0 → s.order? order = none → refused .notFound)
      ∧ (r.group = 3 → (∀ n, namedOf c = some n → named < n) → (r.shape = .bare → r.params = [0]) →
        s.keys.zeroizing = true → refused .tampered)))
  ∧ ∀ (g v tag : Byte) (params : List Byte) (s : State), catalogued g v = false → s.Hears →
    exec (.unknownRequest g v tag params) s = .next (s.replied g v tag params
      (match s.link.mode with | .starting => .starting | .shutdown => .shutdown | .ready => .badRequest) [])

/-- The seconds count rises by one a tick and goes from 0xFFFFFFFF to 0, the flag kept; DEV.TIME writes it, sets the
flag and reports both as they were (R191). -/
def Obligations.SecondsCounted : Prop :=
  (∀ s : State, s.link.seconds < 2 ^ 32 → exec .secondsTick s = .next { s with link := { s.link with
      seconds := if s.link.seconds = 0xFFFFFFFF then 0 else s.link.seconds + 1, clock := s.link.clock + 1 } })
    ∧ ∀ (s : State) (tag : Byte) (params : List Byte), s.Takes → params.length = 4 →
      exec (.devTime tag params) s = .next (State.replied
        { s with link := { s.link with seconds := ofBE params, timeSet := true } }
        1 3 tag params .ok (be 4 s.link.seconds ++ [boolByte s.link.timeSet]))

/-- EVT.READ returns every flag pending, masked or not, and clears exactly those; EVT.MASK writes the whole mask and
reports the one it replaced; both attention fields are those after the effect (R189, R196, R197). In every mode ATTN is
asserted exactly while at least one flag is both pending and unmasked (R195). A mask that names an unused bit is refused:
the model's choice, log entry 19. -/
def Obligations.FlagsReadAndMasked : Prop :=
  (∀ s : State, s.link.Ok →
    (s.attn = true ↔ ∃ f : EventFlag, s.flagPending f = true ∧ s.link.mask.getLsbD f.bit = false))
  ∧ ∀ (s : State) (tag : Byte), s.Takes →
    exec (.evtRead tag [0]) s = .next (State.replied { s with link := { s.link with pending := 0 } } 2 1 tag [0] .ok
      (be 11 s.link.pending.toNat))
    ∧ ∀ params : List Byte, params.length = 11 →
      let mask := BitVec.ofNat 88 (ofBE params)
      exec (.evtMask tag params) s = .next (
        if mask &&& unusedFlagBits = 0 then
          State.replied { s with link := { s.link with mask := mask } } 2 2 tag params .ok (be 11 s.link.mask.toNat)
        else s.replied 2 2 tag params .badValue [])

/-- Reports change nothing but the reply owed: DEV.IDENTIFY and DEV.STATUS in every mode; CUST.STATUS, ENG.STATUS,
ORD.STATUS of an order in the table, ORD.LIST and PORT.STATUS in READY; and on sound protected memory SLOT.LIST of the
32 slots in order, SLOT.INFO, PROF.READ and MATCH.READ, which gives as unreadable the target that a control group lost
(R17, R18, R44, R62, R88, R90, R95, R109, R138, R192, R193, R200). Where R200 leaves a layout open it is the model's
choice, log entry 19, and so is the check value of CUST.STATUS between R44 and R28, log entry 28. That the journal state
of DEV.STATUS is not known through all of STARTING, though the scan is over, and that the free places after a start with
PFW are counted from the segment states kept, is log entry 10; the exact seconds left in CUST.STATUS are log entry 7. -/
def Obligations.ReportsChangeNothing : Prop :=
  ∀ (s : State) (tag : Byte),
    (s.Hears →
      exec (.devIdentify tag [0]) s = .next (s.replied 1 1 tag [0] .ok identityBytes)
      ∧ exec (.devStatus tag [0]) s = .next (s.replied 1 2 tag [0] .ok s.statusBytes)
      ∧ (s.link.mode = .ready →
        exec (.custStatus tag [0]) s = .next (s.replied 4 4 tag [0] .ok s.custodyBytes)
        ∧ exec (.engStatus tag [0]) s = .next (s.replied 5 3 tag [0] .ok s.engine.statusBytes)
        ∧ exec (.ordList tag [0]) s = .next (s.replied 8 8 tag [0] .ok s.orders.listBytes)
        ∧ (∀ (params : List Byte) (o : Order), params.length = 2 → number params 0 2 ≠ 0 →
          s.order? (number params 0 2) = some o →
          exec (.ordStatus tag params) s = .next (s.replied 8 7 tag params .ok o.bytes))
        ∧ ∀ (params : List Byte) (p : PortNo), params.length = 1 → number params 0 1 = p.val →
          exec (.portStatus tag params) s = .next (s.replied 9 6 tag params .ok (s.port p).statusBytes)))
    ∧ (s.Takes → s.Sound → s.Quiet →
      (s.keys.zeroizing = false →
        exec (.slotList tag [0]) s = .next (s.replied 3 1 tag [0] .ok
          ((List.finRange 32).flatMap (fun i => (s.slot i).listBytes i))))
      ∧ ∀ params : List Byte, params.length = 1 →
        (∀ i : SlotNo, number params 0 1 = i.val → s.keys.zeroizing = false →
          exec (.slotInfo tag params) s = .next (s.replied 3 2 tag params .ok ((s.slot i).infoBytes i)))
        ∧ (∀ n : Fin 16, number params 0 1 = n.val →
          exec (.profRead tag params) s = .next (s.replied 6 3 tag params .ok ((s.profile n).bytes n (s.ordersNaming n))))
        ∧ ∀ n : Fin 32, number params 0 1 = n.val →
          exec (.matchRead tag params) s = .next (s.replied 7 1 tag params .ok
            (be 1 n.val ++ [boolByte (s.entry n).written, boolByte (s.entry n).enabled, boolByte (s.entry n).damaged]
              ++ present 4 (some (be 4 (s.entry n).matchValue.toNat)) ++ present 4 (some (be 4 (s.entry n).mask.toNat))
              ++ present 9 (some (serialStartField (s.entry n).serialStart))
              ++ if (s.entry n).targetLost then [2, 0] else present 1 (some (be 1 (s.entry n).target)))))

/-! ## Modes, resets, zeroization -/

/-- STARTING ends in READY once no zeroization runs; DEV.RESTART has its reply owed first and restarts nothing yet, and
one that comes while a restart is due leaves it due (R190, R194). That STARTING's end waits for the zeroization alone,
that STARTING_ENDS while one runs changes nothing, and that a second DEV.RESTART is served so are the model's choices,
log entries 10, 1 and 11. -/
def Obligations.ModeChanges : Prop :=
  (∀ s : State, s.link.mode = .starting → exec .startingEnds s =
    .next (if s.keys.zeroizing then s else { s with link := { s.link with mode := .ready } }))
  ∧ ∀ (s : State) (tag : Byte), s.Takes → exec (.devRestart tag [0]) s = .next (State.replied
    { s with link := { s.link with restart := if s.link.restart = .due then .due else .replyOwed } } 1 4 tag [0] .ok [])

/-- A power-fail warning taken in STARTING or READY, with no restart asked for: the mode is SHUTDOWN, the engine is
held, the Journal is STOPPED, every key area is erased, and so are the device number, the issue label, the check values,
the load blocks and the awaited frame of every session and the blocks, header and check value of every job that waits,
which stays waiting; everything else stands but for the answers to requests that wait: a SLOT.VERIFY whose job still
waits is answered SHUTDOWN and is over, and so is a JRN request that waits; with neither waiting no reply is formed and
a SLOT.VERIFY whose job is in flight goes on (R22, R26, R46, R51, R61, R79, R119, R162, R180, R190). That the session
records and the jobs stand without these values is the model's choice between R162, R61 and R79, log entry 28, and that
a waiting JRN request is answered SHUTDOWN then is log entry 25. -/
def Obligations.PowerFailTaken : Prop :=
  ∀ s : State, s.link.mode ≠ .shutdown → s.link.restart = .none → ∃ t : State, exec .pfwTaken s = .next t
    ∧ t.pins = { s.pins with pfw := true }
    ∧ t.link = { s.link with mode := .shutdown, owed := t.link.owed }
    ∧ t.keys = { s.keys with verify := t.keys.verify }
    ∧ t.engine = { s.engine with holdShutdown := true, waiting := t.engine.waiting, kept := t.engine.kept }
    ∧ (let erased (j : Job) : Job := { j with work := match j.work with
        | .derive _ kind dest => .derive [] kind dest
        | .check => .check
        | .wrap _ _ => .wrap [] [] }
      ∀ r, t.engine.waiting.look r = (s.engine.waiting.look r).map erased
        ∧ t.engine.kept.look r = (s.engine.kept.look r).map erased)
    ∧ t.journal = { s.journal with state := .stopped, request := none }
    ∧ (∀ p, t.port p = { s.port p with
      keyArea := KeyArea.blank
      session := (s.port p).session.map (fun x => { x with
        device := none
        label := none
        items := x.items.map (fun i => { i with check := none, block := none })
        awaited := x.awaited.map (fun a => { a with bytes := [] }) }) })
    ∧ t.custody = s.custody ∧ t.profiles = s.profiles ∧ t.entries = s.entries ∧ t.orders = s.orders
    ∧ (let verifyWaits : Prop := s.keys.verify.isSome = true
        ∧ ∃ j, s.engine.waiting.look custodyRequester = some j ∧ j.isVerify = true
      (verifyWaits → t.keys.verify = none ∧ ∀ tag params, s.link.owed = some ⟨3, 3, tag, none⟩ →
        t.link.owed = (s.replied 3 3 tag params .shutdown []).link.owed)
      ∧ (¬ verifyWaits → t.keys.verify = s.keys.verify
        ∧ (s.journal.request = none → t.link.owed = s.link.owed)
        ∧ ∀ v tag params, s.journal.request.isSome = true → s.link.owed = some ⟨10, v, tag, none⟩ →
          t.link.owed = (s.replied 10 v tag params .shutdown []).link.owed))

/-- A power-on reset puts every block at its reset values and keeps the protected memory and the flash as found; a
restart that is due, with the flash idle, does the same with the strap and PFW read again. Start-up runs from there
(R25, R63, R190, R194). That the commands which wait stand is the model's choice, log entry 4, and so are a listening pad
receiver, ports out of step and timers at 0 after it, log entry 9. -/
def Obligations.ResetValues : Prop :=
  (∀ (s : State) (found : PowerOn), ∃ u : State, exec (.powerOnReset found) s = .next u.startUp
    ∧ ResetFrom s u found.strapHigh found.tamper found.pfw
    ∧ (found.batteryHeld = true → found.upsets = [] → found.flash = .untouched → StoreKept s u)
    ∧ (found.batteryHeld = false → found.upsets = [] → u.keys.marker.valid = false))
  ∧ ∀ (s : State) (strapHigh pfw : Bool), s.link.restart = .due → s.journal.flash = .idle →
    ∃ u : State, exec (.partRestart strapHigh pfw) s = .next u.startUp ∧ ResetFrom s u strapHigh s.pins.tamper pfw ∧ StoreKept s u

/-- Start-up. With PFW not asserted the mode stays STARTING. A store whose marker is not valid, or has a double error,
is lost: every slot is EMPTY, every profile UNDEFINED, every entry cleared, the marker valid again and STORE-LOST
pending. A kept store keeps its profiles and its entries, and with TAMPER not asserted its slots with their keys and
range records too, but for ASSEMBLING and EMPTY ones, which are EMPTY with zero words, and the holders counts, which are
0 (R9, R25, R98). That the state group of each slot is read, a wrong bit corrected and a slot with a double error made
DAMAGED, is log entry 8; that an EMPTY slot's unreadable marks are cleared, log entry 27. The Journal's scan then gives
every segment its state by its header and places, one ACTIVE at most, makes a last record that does not check void,
reconciles the two counters, or rebuilds them when the store is lost or one of their words has a double error, queues an
INTERRUPTED settlement for every PENDING record with JOURNAL-INTERRUPTED, lists the erases cut off and the segments to
reclaim, and judges the warning (R170, R177, R181, R182). How a header cut off reads is log entry 17, and which of
several segments held the last place, and that a BAD header without a sound opened mark has no first sequence mark, log
entry 18. With TAMPER asserted a zeroization then begins: every slot EMPTY, the ZEROIZE hold, TAMPER pending and the
ZEROIZED record behind the start-up settlements (R23, R61, R183). With PFW asserted the part is in SHUTDOWN at once: the
engine has the SHUTDOWN hold, the Journal is STOPPED, and nothing else has changed, but that with TAMPER asserted too
the Key Store's part of a zeroization begins (R24, R190); that neither store check nor scan is made then is log
entry 10. -/
def Obligations.StartUpStore : Prop :=
  (∀ (s u : State) (strapHigh tamper : Bool), ResetFrom s u strapHigh tamper false →
    let lost : Prop := u.keys.marker.valid = false ∨ u.keys.marker.mem.double = true
    u.startUp.link.mode = .starting ∧ u.startUp.keys.zeroizing = tamper ∧ u.startUp.engine = { u.engine with holdZeroize := tamper }
    ∧ u.startUp.flagPending (.global .tamper) = tamper
    ∧ (lost →
      (∀ i, u.startUp.slot i = Slot.blank) ∧ (∀ n, u.startUp.profile n = Profile.blank)
      ∧ (∀ n, u.startUp.entry n = Entry.blank) ∧ u.startUp.keys.marker = ⟨true, GroupMem.clean⟩
      ∧ u.startUp.flagPending (.global .storeLost) = true)
    ∧ (¬ lost → u.startUp.profiles = u.profiles ∧ u.startUp.entries = u.entries
      ∧ ∀ i, let x := u.slot i
        (tamper = true → u.startUp.slot i = { Slot.blank with mem := (u.startUp.slot i).mem })
        ∧ (tamper = false →
          ((u.startUp.slot i).state ≠ .assembling ∧ (u.startUp.slot i).holders = 0
            ∧ ((u.startUp.slot i).state = .empty → u.startUp.slot i = Slot.blank))
          ∧ (x.mem.state.double = false → x.mem.state.unreadable = false →
            u.startUp.slot i = if x.state = .assembling ∨ x.state = .empty then Slot.blank
              else { x with holders := 0, mem := { x.mem with state := GroupMem.clean } })
          ∧ (x.mem.state.double = true → x.mem.state.unreadable = false →
            u.startUp.slot i = { x with state := .damaged, holders := 0, mem := { x.mem with state := GroupMem.clean } }
            ∧ u.startUp.flagPending (.global .keyDamaged) = true)))
    ∧ ∃ v : State, v.journal.ScannedFrom u.journal
      ∧ u.startUp = (if tamper = true then State.queueZeroized (State.flagged
          { v with keys := v.keys.emptied, engine := { v.engine with holdZeroize := true } }
          (EventFlag.global .tamper).single) else v).settle
      ∧ (lost ∨ u.journal.nextSeq.mem.double = true ∨ u.journal.released.mem.double = true →
        v.journal.nextSeq = ⟨(match v.journal.newestFound with | some q => q + 1 | none => v.journal.largestMark), GroupMem.clean⟩
        ∧ v.journal.released.mem = GroupMem.clean
        ∧ (∀ r, v.journal.heldRecords.head? = some r → v.journal.released.value = r.seq - 1)
        ∧ (v.journal.heldRecords = [] → v.journal.released.value = v.journal.nextSeq.value - 1))
      ∧ (¬ lost → u.journal.nextSeq.mem = GroupMem.clean → u.journal.released.mem = GroupMem.clean →
        v.journal.nextSeq = ⟨(match v.journal.newestFound with
            | some q => max u.journal.nextSeq.value (q + 1)
            | none => u.journal.nextSeq.value), GroupMem.clean⟩
        ∧ v.journal.released = ⟨(match v.journal.oldestPending with
            | some q => min u.journal.released.value (q - 1)
            | none => u.journal.released.value), GroupMem.clean⟩)
      ∧ v.flagPending (.global .journalInterrupted) = !v.journal.pendingRecords.isEmpty
      ∧ v.flagPending (.global .journalHigh) = v.journal.highNoted)
  ∧ ∀ (s u : State) (strapHigh tamper : Bool), ResetFrom s u strapHigh tamper true →
    (∀ p, u.startUp.port p = Port.blank) ∧ u.startUp = { u with
      ports := u.startUp.ports
      keys := if tamper = true then u.keys.emptied else u.keys
      link := { u.link with mode := .shutdown, pending := if tamper = true then (EventFlag.global .tamper).single else 0 }
      engine := { u.engine with holdShutdown := true, holdZeroize := tamper }
      journal := { u.journal with state := .stopped } }

/-- TAMPER asserted while no zeroization runs begins one: at once every slot is EMPTY with its key words zero, the
ZEROIZE hold is taken and TAMPER pending. Outside SHUTDOWN both presences end, the window closes with AUTH-CLOSED and
the bar is cleared; an assembly fails with ZEROIZED, its ASSEMBLY-FAILED queued and raised; every component of the
intake is answered TAMPERED. Every session present ends with its CLOSE and SESSION-END: SPOILED(ZEROIZED) with a device
number, WITHDRAWN(ZEROIZED) without, in SETTLING as R156 decides and in CLOSING COMPLETE; its settlement is queued or
changed, and no port waits for a place. Every order not DONE or ABORTED is HELD(ZEROIZED), and profiles but for their
holders and recognition entries stand. An unmarked job in flight is marked ZEROIZED when it reads a slot key, and
DISCARDED when it is another job of a session or of the assembly ended. A SLOT.VERIFY whose job waits is answered
TAMPERED and its job removed; none waits after it if none was kept behind another job of requester 16 (StepKeepsLawful).
Last the Journal appends a ZEROIZED record with a count of 1 from its reserve, or raises the count of one whose program
has not begun; with no place free JOURNAL-FULL, in FAULT JOURNAL-FAULT. The assertion joins a zeroization that runs. A
zeroization's end rewrites every slot word, clears the unreadable marks and releases the ZEROIZE hold, the holders
counts standing; TAMPER's deassertion alone changes the pin (R22 to R24, R42, R45, R53, R58, R59, R118, R141, R156,
R157, R161, R183, section 1.7). In SHUTDOWN the other blocks stand, which log entry 26 deduces (R46, R119, R141, R180).
The order in which the blocks act is log entry 26, the counts of 0 in the RESULTs log entry 13, the COMPLETE in CLOSING
and the kept time of a changed settlement log entry 15, where the refusals stand in the assembly's record log entry 19,
and which ZEROIZED record still waits, and what becomes of one in FAULT or with no place free, log entry 28. -/
def Obligations.Zeroization : Prop :=
  (∀ s : State, s.pins.tamper = false →
    (s.keys.zeroizing = true → exec .zeroizationBegins s = .next { s with pins := { s.pins with tamper := true } })
    ∧ (s.keys.zeroizing = false → ∃ u : State, exec .zeroizationBegins s = .next u.settle
      ∧ u.pins = { s.pins with tamper := true } ∧ u.keys.zeroizing = true ∧ u.engine.holdZeroize = true
      ∧ u.flagPending (.global .tamper) = true
      ∧ (∀ i, (u.slot i).state = .empty ∧ (u.slot i).key = List.replicate 32 0 ∧ (u.slot i).range = none
        ∧ (u.slot i).role = none ∧ (u.slot i).kind = none ∧ (u.slot i).check = none)
      ∧ (s.link.mode ≠ .shutdown → u.custody = { s.custody with
          lineA := { s.custody.lineA with presence := none, sent := s.custody.lineA.sent ++ s.intakeTampered .a }
          lineB := { s.custody.lineB with presence := none, sent := s.custody.lineB.sent ++ s.intakeTampered .b }
          window := none, reopenBar := false, assembly := none, intake := [], underCheck := false
          lastEnding := match s.custody.assembly with
            | some a => some ⟨a.slot, .zeroized, s.link.seconds⟩
            | none => s.custody.lastEnding }
        ∧ (s.custody.window.isSome = true → u.flagPending (.global .authClosed) = true)
        ∧ (s.custody.assembly.isSome = true → u.flagPending (.global .assemblyFailed) = true)
        ∧ (∀ p, s.session? p = none → u.port p = s.port p)
        ∧ (∀ p x, s.session? p = some x →
          let e := s.cutEnd p x .zeroized
          u.port p = { s.port p with
            state := s.stateAfter p, session := none, keyArea := KeyArea.blank, lastEnd := some e, timerFrom := s.now
            sent := (s.port p).sent ++ [s.closingChars p x e.1 e.2] }
          ∧ u.flagPending (.port .sessionEnd p) = true)
        ∧ (s.journal.waiters.Nodup → (∀ p ∈ s.journal.waiters, (s.session? p).isSome = true) → u.journal.waiters = [])
        ∧ (∀ o ∈ u.orders.orders, o.state ≠ .done → o.state ≠ .aborted → o.state = .held ∧ o.hold = some .zeroized)
        ∧ (∀ (j : Job) (tag : Byte), s.engine.waiting.look custodyRequester = some j → j.isVerify = true →
          s.link.owed = some ⟨3, 3, tag, none⟩ → u.keys.verify = none
          ∧ u.link.owed = ((s.flagged (EventFlag.global .tamper).single).replied 3 3 tag [] .tampered []).link.owed)
        ∧ ((∀ j, s.engine.kept.look custodyRequester = some j → j.isVerify = false) →
          ∀ j, u.engine.waiting.look custodyRequester = some j → j.isVerify = false)
        ∧ ∃ w : State, u = w.queueZeroized ∧ w.journal.state = s.journal.state ∧ w.stamp = s.stamp
          ∧ w.journal.runQueue = (List.finRange 16).foldl (s.cutSettlement .zeroized) (s.journal.runQueue ++
            match s.custody.assembly with
            | some a => [.custody ⟨.assemblyFailed, s.stamp, 0, 0, be 1 a.slot.val ++ be 1 5
                ++ (be 1 a.parts.length ++ a.parts.flatMap (fun q => be 1 q.custodian)) ++ be 1 a.refusals⟩]
            | none => [])
          ∧ ((∀ p, s.session? p = none) → s.custody.assembly = none → w.journal = s.journal))
      ∧ (∀ n, u.profile n = { s.profile n with holders := (u.profile n).holders }) ∧ u.entries = s.entries
      ∧ (∀ f, s.engine.inFlight = some f →
        (f.mark ≠ .none → u.engine.inFlight = some f)
        ∧ (f.mark = .none → f.job.readsSlot = true → u.engine.inFlight = some { f with mark := .zeroized })
        ∧ (f.mark = .none → f.job.readsSlot = false → s.link.mode ≠ .shutdown →
          ((∃ p x, s.session? p = some x ∧ f.job.requester = portRequester p)
            ∨ s.custody.assembly.isSome = true ∧ f.job.requester = custodyRequester) →
          u.engine.inFlight = some { f with mark := .discarded }))
      ∧ (s.link.mode = .shutdown → u.custody = s.custody ∧ u.orders = s.orders ∧ u.ports = s.ports
        ∧ u.journal = s.journal)))
  ∧ (∀ s : State, s.keys.zeroizing = true → ∃ u : State, exec .zeroizationEnd s = .next (State.settle u)
    ∧ (∀ i, u.slot i = { s.slot i with mem := SlotMem.clean })
    ∧ u = { s with keys := { s.keys with slots := u.keys.slots, zeroizing := false }
                   engine := { s.engine with holdZeroize := false } })
  ∧ (∀ s : State, exec .tamperDeasserted s = .next { s with pins := { s.pins with tamper := false } })
  ∧ ∀ w : State,
    let j := w.journal
    let isZ (e : QueueEntry) : Prop := ∃ r, e = .custody r ∧ r.type = .zeroized
    let begun : Bool := (match j.flash with | .programming _ => j.startQueue.isEmpty | _ => false) || j.headFailed
    let waiting := if begun then j.runQueue.drop 1 else j.runQueue
    (j.state = .stopped → w.queueZeroized = w)
    ∧ (j.state = .fault → w.queueZeroized = w.flagged (EventFlag.global .journalFault).single)
    ∧ (j.state = .working → (∃ e ∈ waiting, isZ e) → w.queueZeroized = { w with journal := { j with
        runQueue := (if begun then j.runQueue.take 1 else []) ++ waiting.map (fun e =>
          match e with
          | .custody r => if r.type = .zeroized then .custody { r with fields := be 1 (min 255 (ofBE r.fields + 1)) } else e
          | _ => e) } })
    ∧ (j.state = .working → (∀ e ∈ waiting, ¬ isZ e) →
      (1 ≤ j.free → w.queueZeroized = State.flagged { w with journal := { j with
          promised := j.promised + 1
          runQueue := j.runQueue ++ [.custody ⟨.zeroized, w.stamp, 0, 0, [1]⟩]
          highNoted := decide (j.free - 1 ≤ j.warnLevel) } } (j.highFlag 1))
      ∧ (j.free < 1 → w.queueZeroized = w.flagged (EventFlag.global .journalFull).single))

/-! ## Key Store -/

/-- SLOT.VERIFY of a slot in another state than ACTIVE and SUSPENDED, or while the engine has a hold cause, is refused
WRONG-STATE, and with a job of requester 16 waiting or in flight IN-USE. Of an ACTIVE or SUSPENDED slot, with no hold
cause and requester 16 free, it keeps the stored check value and submits a CHECK job of the slot; no reply is formed
yet. At the end of its unmarked job in READY the verdict is MATCH when the stored check value is the computed one; else
MISMATCH, the slot DAMAGED if it was not, with KEY-DAMAGED on that change. A slot found DAMAGED at the grant gives
UNREADABLE, a job that a zeroization has marked TAMPERED, and one that ends after a power-fail warning SHUTDOWN (R12,
R22). The verdict codes, the presence byte on each check value and that the stored one comes first are the model's
choices, log entry 19; that the value compared with is the one stored when the request was taken is log entry 16. -/
def Obligations.SlotVerified : Prop :=
  (∀ (s : State) (tag : Byte) (params : List Byte) (i : SlotNo), s.Takes → s.Sound → s.keys.zeroizing = false →
    params.length = 1 → number params 0 1 = i.val →
    let keyed : Prop := (s.slot i).state = .active ∨ (s.slot i).state = .suspended
    let refused (st : Status) : Prop := exec (.slotVerify tag params) s = .next (State.settle (s.replied 3 3 tag params st []))
    (¬ keyed ∨ s.engine.held = true → refused .wrongState)
    ∧ (keyed → s.engine.held = false → (s.engine.waiting.look custodyRequester).isSome = true
        ∨ (∃ f, s.engine.inFlight = some f ∧ f.job.requester = custodyRequester) → refused .inUse)
    ∧ (keyed → s.engine.held = false → s.engine.busy custodyRequester = false →
      exec (.slotVerify tag params) s = .next (State.settle { s.taken 3 3 tag params with
        keys := { s.keys with verify := some ⟨i, (s.slot i).check⟩ }
        engine := { s.engine with
          waiting := s.engine.waiting.put custodyRequester (some ⟨custodyRequester, .slot i, .check⟩) } })))
  ∧ ∀ (s : State) (v : VerifyRequest) (i : SlotNo) (tag : Byte) (params : List Byte),
    s.keys.verify = some v → s.link.owed = some ⟨3, 3, tag, none⟩ → s.link.buffer = 3 :: 3 :: tag :: params →
    let job : Job := ⟨custodyRequester, .slot i, .check⟩
    let done : State := { s with keys := { s.keys with verify := none } }
    (∀ f : InFlight, s.engine.inFlight = some f → f.job = job →
      let computed := checkValue f.kind f.key
      let u : State := { done with engine := s.engine.finish f }
      (s.link.mode = .ready → f.mark = .none →
        exec .jobEnd s = .next (State.settle (
          if v.stored = some computed then
            u.replied 3 3 tag params .ok (be 1 1 ++ present 3 v.stored ++ present 3 (some computed))
          else
            State.replied (if (s.slot v.slot).state = .damaged then u
              else State.flagged (u.setSlot v.slot { s.slot v.slot with
                state := .damaged, mem := { (s.slot v.slot).mem with state := GroupMem.clean } })
                (EventFlag.global .keyDamaged).single)
              3 3 tag params .ok (be 1 2 ++ present 3 v.stored ++ present 3 (some computed)))))
      ∧ (s.link.mode = .ready → f.mark = .zeroized →
        exec .jobEnd s = .next (State.settle (u.replied 3 3 tag params .tampered [])))
      ∧ (s.link.mode = .shutdown → f.mark = .none →
        exec .jobEnd s = .next (State.settle (u.replied 3 3 tag params .shutdown []))))
    ∧ (s.link.mode = .ready → s.Sound → s.agenda = [] → s.takeUp? = none → s.engine.granted? = some job →
      (s.slot i).state = .damaged → s.react? = some (State.replied
        { done with engine := (s.engine.grant job).promote custodyRequester } 3 3 tag params .ok
        (be 1 3 ++ present 3 v.stored ++ present 3 none)))

/-- SLOT.SUSPEND of an ACTIVE slot, once the Journal accepts a place, makes it SUSPENDED, its holders count and the
sessions that hold it standing; holds on it are then refused naming SUSPENDED, and allocations with NOT-ACTIVE.
SLOT.RESUME of a SUSPENDED one, under the window, makes it ACTIVE, its range record standing, and raises no event. Each
has its record queued into the accepted place, and nothing else changes. In any other state each is refused with
WRONG-STATE, and with no place accepted with JOURNAL-FULL (R19, R20). That line A's custodian stands first in the record
is the model's choice, log entry 19. -/
def Obligations.SlotSuspendedResumed : Prop :=
  ∀ (s : State) (tag : Byte) (params : List Byte) (i : SlotNo), s.Takes → s.Sound →
    s.keys.zeroizing = false → params.length = 1 → number params 0 1 = i.val →
    let noRoom : State := s.flagged ((EventFlag.global .journalFull).single
      ||| if s.journal.state = .fault then (EventFlag.global .journalFault).single else 0)
    ((s.slot i).state ≠ .active →
      exec (.slotSuspend tag params) s = .next (State.settle (s.replied 3 4 tag params .wrongState [])))
    ∧ ((s.slot i).state = .active → ¬ s.RoomFor 1 →
      exec (.slotSuspend tag params) s = .next (State.settle (noRoom.replied 3 4 tag params .journalFull [])))
    ∧ ((s.slot i).state = .active → s.RoomFor 1 →
      let u := (s.setSlot i { s.slot i with state := .suspended }).recorded 1
        ⟨.slotSuspended, s.stamp, 0, 0, be 1 i.val ++ present 3 (s.slot i).check⟩ 0
      exec (.slotSuspend tag params) s = .next (State.settle (u.replied 3 4 tag params .ok []))
      ∧ (∀ p, (u.takeHold p i).1 = .refused .suspended) ∧ (u.allocate i).1 = .notActive)
    ∧ (s.custody.window = none →
      exec (.slotResume tag params) s = .next (State.settle (s.replied 3 6 tag params .notAuthorized [])))
    ∧ ∀ a b : Nat, s.WindowOf a b →
      ((s.slot i).state ≠ .suspended →
        exec (.slotResume tag params) s = .next (State.settle (s.replied 3 6 tag params .wrongState [])))
      ∧ ((s.slot i).state = .suspended → ¬ s.RoomFor 1 →
        exec (.slotResume tag params) s = .next (State.settle (noRoom.replied 3 6 tag params .journalFull [])))
      ∧ ((s.slot i).state = .suspended → s.RoomFor 1 →
        exec (.slotResume tag params) s = .next (State.settle (State.replied
          ((s.setSlot i { s.slot i with state := .active }).recorded 1
            ⟨.slotResumed, s.stamp, a, b, be 1 i.val ++ present 3 (s.slot i).check⟩ 0) 3 6 tag params .ok [])))

/-- SLOT.RANGE gives an ACTIVE or SUSPENDED ROOT slot without a range record its record, next equal to first, warned set
and RANGE-LOW raised when the remaining count is at or under the warning level. The first of these that holds refuses
it: a slot of another state or role, or with a range record, WRONG-STATE; a first of 0 or above last, or a last above
0xFFFFFFFE, BAD-VALUE; another slot with the key set number, or one whose range group is or is found unreadable,
DUPLICATE; no place accepted, JOURNAL-FULL (R7, R13, R16). That line A's custodian stands first in the record is the
model's choice, log entry 19, and that an unreadable range group counts also where no range record stands is log entry
27. -/
def Obligations.SlotRangeSet : Prop :=
  ∀ (s : State) (tag : Byte) (params : List Byte) (i : SlotNo) (a b : Nat), s.Takes →
    s.keys.zeroizing = false → s.WindowOf a b → params.length = 15 → number params 0 1 = i.val →
    let keySet := number params 1 4
    let first := number params 5 4
    let last := number params 9 4
    let warn := number params 13 2
    let refused (t : State) (st : Status) : Prop :=
      exec (.slotRange tag params) s = .next (State.settle (t.replied 3 5 tag params st []))
    let fits : Prop := ((s.slot i).state = .active ∨ (s.slot i).state = .suspended) ∧ (s.slot i).role = some .root
      ∧ (s.slot i).range = none
    let lawful : Prop := first ≠ 0 ∧ first ≤ last ∧ last ≤ 0xFFFFFFFE
    let twin : Prop := ∃ k, k ≠ i ∧ (s.slot k).range.map (·.keySet) = some keySet
    (s.Sound →
      (¬ fits → refused s .wrongState)
      ∧ (fits → ¬ lawful → refused s .badValue)
      ∧ (fits → lawful → twin → refused s .duplicate)
      ∧ (fits → lawful → ¬ twin → ¬ s.RoomFor 1 → refused (s.flagged ((EventFlag.global .journalFull).single
          ||| if s.journal.state = .fault then (EventFlag.global .journalFault).single else 0)) .journalFull)
      ∧ (fits → lawful → ¬ twin → s.RoomFor 1 →
        let low := decide (last + 1 - first ≤ warn)
        exec (.slotRange tag params) s = .next (State.settle (State.replied
          ((s.setSlot i { s.slot i with range := some ⟨keySet, first, last, first, warn, low⟩ }).recorded 1
            ⟨.rangeSet, s.stamp, a, b, be 1 i.val ++ present 3 (s.slot i).check ++ be 4 keySet ++ be 4 first ++ be 4 last
              ++ be 2 warn⟩ (if low then (EventFlag.global .rangeLow).single else 0)) 3 5 tag params .ok
          (be 4 keySet ++ be 4 first ++ be 4 last ++ be 4 first ++ be 2 warn ++ [boolByte low]
            ++ be 4 (last + 1 - first))))))
    ∧ ∀ k, k ≠ i → (∀ n, n ≠ k → (s.slot n).mem = SlotMem.clean) → fits → lawful →
      ((s.slot k).state = .damaged → (s.slot k).mem = SlotMem.clean.upd .range (fun _ => ⟨0, true, true⟩) →
        refused s .duplicate)
      ∧ ((s.slot k).state = .active ∨ (s.slot k).state = .suspended →
        (s.slot k).mem = SlotMem.clean.upd .range (fun _ => ⟨0, true, false⟩) →
        refused (State.flagged (s.setSlot k { s.slot k with
          state := .damaged, mem := SlotMem.clean.upd .range (fun _ => ⟨0, true, true⟩) })
          (EventFlag.global .keyDamaged).single) .duplicate)

/-- SLOT.ERASE under the window: refused IN-USE while the slot has holders, and JOURNAL-FULL with no place accepted;
otherwise the slot is EMPTY with its words zero, the record queued and the state and check value reported, an EMPTY slot
included. The erasure of the ASSEMBLING slot of the assembly in progress fails it with CANCELLED besides (R16, R21,
R42). That line A's custodian stands first in the record is the model's choice, log entry 19, and that the RESULTs which
then answer the intake report counts of 0 is log entry 13; where the refusals stand in the assembly's record is log
entry 19, and that SLOT-ERASED is queued before ASSEMBLY-FAILED, which the rules leave open, is log entry 6. -/
def Obligations.SlotErased : Prop :=
  ∀ (s : State) (tag : Byte) (params : List Byte) (i : SlotNo) (a b : Nat), s.Takes → s.Sound →
    s.keys.zeroizing = false → s.WindowOf a b → params.length = 1 → number params 0 1 = i.val →
    (0 < (s.slot i).holders → exec (.slotErase tag params) s = .next (State.settle (s.replied 3 7 tag params .inUse [])))
    ∧ ((s.slot i).holders = 0 → ¬ s.RoomFor 1 →
      exec (.slotErase tag params) s = .next (State.settle (s.placeRefused.replied 3 7 tag params .journalFull [])))
    ∧ ((s.slot i).holders = 0 → s.RoomFor 1 →
      let report := be 1 (s.slot i).state.code ++ present 3 (s.slot i).check
      let erased := (s.setSlot i Slot.blank).recorded 1 ⟨.slotErased, s.stamp, a, b, be 1 i.val ++ report⟩ 0
      ((s.slot i).state ≠ .assembling →
        exec (.slotErase tag params) s = .next (State.settle (erased.replied 3 7 tag params .ok report)))
      ∧ ∀ y, (s.slot i).state = .assembling → s.custody.assembly = some y → y.slot = i →
        ∃ u : State, AssemblyFailed erased u y .cancelled
          ∧ exec (.slotErase tag params) s = .next (State.settle (u.replied 3 7 tag params .ok report)))

/-- While the window is CLOSED the eight requests that need it are refused with NOT-AUTHORIZED and have no effect,
once the checks before that step pass (R34). -/
def Obligations.WindowNeeded : Prop :=
  ∀ (s : State) (tag : Byte) (params : List Byte), s.Takes → s.Quiet → s.custody.window = none →
    s.keys.zeroizing = false →
    (number params 0 1 < 32 →
      (params.length = 15 → exec (.slotRange tag params) s = .next (s.replied 3 5 tag params .notAuthorized []))
      ∧ (params.length = 1 → exec (.slotResume tag params) s = .next (s.replied 3 6 tag params .notAuthorized [])
        ∧ exec (.slotErase tag params) s = .next (s.replied 3 7 tag params .notAuthorized [])
        ∧ exec (.matchEnable tag params) s = .next (s.replied 7 3 tag params .notAuthorized []))
      ∧ (params.length = 19 → exec (.matchWrite tag params) s = .next (s.replied 7 2 tag params .notAuthorized [])))
    ∧ (number params 0 1 < 16 →
      (params.length = 37 → exec (.profWrite tag params) s = .next (s.replied 6 1 tag params .notAuthorized []))
      ∧ (params.length = 1 → exec (.profDelete tag params) s = .next (s.replied 6 2 tag params .notAuthorized [])))
    ∧ (params.length = 15 → (OpenRequest.read? params).isSome = true → s.pins.tamper = false →
      exec (.custOpen tag params) s = .next (s.replied 4 1 tag params .notAuthorized []))

/-- Reads of the protected memory, outside SHUTDOWN. Words with one wrong bit are corrected, counted and flagged. Of a
slot, a double error outside the state group clears the words of an EMPTY slot, marks the group of a DAMAGED slot, and
makes any other slot DAMAGED with KEY-DAMAGED; one in the state group does so in every state and rebuilds the holders
count from the sessions' holds. A profile takes the like, with PROFILE-DAMAGED and its holders standing. A recognition
entry with a double error is disabled and DAMAGED, with PROFILE-DAMAGED unless it was so before, its control group
rewritten and the group that failed unreadable. A double error in one of the two journal counters starts a rebuild, for
which the append or the JRN request waits (R5, R7, R82, R90, R182). That an entry whose control group failed keeps its
written flag is the model's choice, log entry 27. -/
def Obligations.ReadErrors : Prop :=
  ∀ s : State, s.link.mode ≠ .shutdown →
    let fixed (n : Nat) (t : State) : State := State.flagged
      { t with keys := { t.keys with corrected := min 65535 (s.keys.corrected + n) } } (EventFlag.global .memoryCorrected).single
    let one (n : Nat) : GroupMem := ⟨n, false, false⟩
    let two : GroupMem := ⟨0, true, false⟩
    let lost : GroupMem := ⟨0, true, true⟩
    (∀ i : SlotNo,
      (∀ (g : SlotGroup) (n : Nat), g ≠ .state → 0 < n → (s.slot i).mem = SlotMem.clean.upd g (fun _ => one n) →
        s.readSlotWords i [g] = fixed n (s.setSlot i { s.slot i with mem := SlotMem.clean }))
      ∧ (∀ n : Nat, 0 < n → (s.slot i).mem = SlotMem.clean.upd .state (fun _ => one n) →
        s.readSlotWords i [] = fixed n (s.setSlot i { s.slot i with mem := SlotMem.clean }))
      ∧ (∀ g : SlotGroup, g ≠ .state → (s.slot i).mem = SlotMem.clean.upd g (fun _ => two) →
        s.readSlotWords i [g] =
          match (s.slot i).state with
          | .empty => s.setSlot i { s.slot i with mem := SlotMem.clean }
          | .damaged => s.setSlot i { s.slot i with mem := SlotMem.clean.upd g (fun _ => lost) }
          | _ => State.flagged (s.setSlot i { s.slot i with
              state := .damaged, mem := SlotMem.clean.upd g (fun _ => lost) }) (EventFlag.global .keyDamaged).single)
      ∧ ((s.slot i).mem = SlotMem.clean.upd .state (fun _ => two) →
        s.readSlotWords i [] = State.flagged (s.setSlot i { s.slot i with
          state := .damaged, holders := s.reportedHolds i, mem := SlotMem.clean }) (EventFlag.global .keyDamaged).single))
    ∧ (∀ i : Fin 16,
      (∀ (g : ProfGroup) (n : Nat), g ≠ .state → 0 < n → (s.profile i).mem = ProfileMem.clean.upd g (fun _ => one n) →
        s.readProfileWords i [g] = fixed n (s.setProfile i { s.profile i with mem := ProfileMem.clean }))
      ∧ (∀ n : Nat, 0 < n → (s.profile i).mem = ProfileMem.clean.upd .state (fun _ => one n) →
        s.readProfileWords i [] = fixed n (s.setProfile i { s.profile i with mem := ProfileMem.clean }))
      ∧ (∀ g : ProfGroup, g ≠ .state → (s.profile i).mem = ProfileMem.clean.upd g (fun _ => two) →
        s.readProfileWords i [g] =
          match (s.profile i).state with
          | .undefined => s.setProfile i { s.profile i with mem := ProfileMem.clean }
          | .damaged => s.setProfile i { s.profile i with mem := ProfileMem.clean.upd g (fun _ => lost) }
          | .defined => State.flagged (s.setProfile i { s.profile i with
              state := .damaged, mem := ProfileMem.clean.upd g (fun _ => lost) }) (EventFlag.global .profileDamaged).single)
      ∧ ((s.profile i).mem = ProfileMem.clean.upd .state (fun _ => two) →
        s.readProfileWords i [] = State.flagged (s.setProfile i { s.profile i with
          state := .damaged, mem := ProfileMem.clean }) (EventFlag.global .profileDamaged).single))
    ∧ (∀ i : Fin 32,
      let e := s.entry i
      let hurt (x : Entry) : State := State.flagged (s.setEntry i { x with enabled := false, damaged := true })
        (if e.damaged then 0 else (EventFlag.global .profileDamaged).single)
      (∀ n : Nat, 0 < n → e.control = one n → e.contents = GroupMem.clean → ∀ both : Bool,
        s.readEntry i both = fixed n (s.setEntry i { e with control := GroupMem.clean }))
      ∧ (∀ n : Nat, 0 < n → e.control = GroupMem.clean → e.contents = one n →
        s.readEntry i true = fixed n (s.setEntry i { e with contents := GroupMem.clean }))
      ∧ (e.control = two → e.contents = GroupMem.clean → ∀ both : Bool,
        s.readEntry i both = hurt { e with targetLost := true, control := GroupMem.clean })
      ∧ (e.control = GroupMem.clean → e.contents = two →
        s.readEntry i true = hurt { e with contents := lost } ∧ s.readEntry i false = s))
    ∧ (∀ n : Nat, 0 < n →
      (s.journal.nextSeq.mem = one n → s.readNextSeq = (true, fixed n { s with journal :=
        { s.journal with nextSeq := ⟨s.journal.nextSeq.value, GroupMem.clean⟩ } }))
      ∧ (s.journal.released.mem = one n → s.readReleased = (true, fixed n { s with journal :=
        { s.journal with released := ⟨s.journal.released.value, GroupMem.clean⟩ } })))
    ∧ (s.journal.flash = .idle → s.journal.rebuilding = false →
      (∀ q : QueueEntry, s.journal.state = .working → s.link.restart ≠ .due → s.journal.nextSeq.mem = two →
        s.journal.head? = some q → (∀ t, q ≠ .settle t) →
        s.flashNext? = some { s with journal := { s.journal with rebuilding := true } })
      ∧ ∀ (tag : Byte) (params : List Byte), s.Takes →
        (s.journal.nextSeq.mem = two ∧ s.journal.released.mem = GroupMem.clean
          ∨ s.journal.nextSeq.mem = GroupMem.clean ∧ s.journal.released.mem = two) →
        let waits (v : Byte) (r : JournalRequest) : State := { s.taken 10 v tag params with
          journal := { s.journal with rebuilding := true, request := some r } }
        (params.length = 2 →
          exec (.jrnStatus tag params) s = .next (State.settle (waits 1 (.status (number params 0 2)))))
        ∧ (params.length = 4 →
          exec (.jrnRelease tag params) s = .next (State.settle (waits 3 (.release (number params 0 4))))))

/-- Slot holds. Asked for a hold, the Key Store grants it on an ACTIVE slot, whose holders count rises by one;
otherwise, and while a zeroization runs, it refuses naming the state found, and with SHUTDOWN after a power-fail warning
(R10, R26). A session handed a unit reads its profile again and, with that DEFINED, takes its holds in the order
transport, root, FIXED slots, each slot once. When each is ACTIVE or held, of the role and kind the profile needs, it
asks for a journal place. Accepted, it asks for its number; refused in WORKING, it joins the waiters, with JOURNAL-FULL
unless its port's entry alone stands against it; in FAULT it ends WITHDRAWN(NO-JOURNAL). When one is not, every hold
taken is dropped and it ends WITHDRAWN(KEY-UNAVAILABLE) (R89, R97, R146 to R148, R168). -/
def Obligations.HoldsTaken : Prop :=
  (∀ (s : State) (p : PortNo) (i : SlotNo),
    (s.link.mode = .shutdown → s.takeHold p i = (.shutdown, s))
    ∧ (s.link.mode ≠ .shutdown → s.keys.zeroizing = true → s.takeHold p i = (.refused (s.slot i).state, s))
    ∧ (s.link.mode ≠ .shutdown → s.keys.zeroizing = false → s.Sound → s.takeHold p i =
      if (s.slot i).state = .active then
        (.granted, State.updPort (s.setSlot i { s.slot i with holders := (s.slot i).holders + 1 }) p (fun q => { q with
          session := q.session.map (fun x => { x with slotHolds := x.slotHolds ++ [i] }) }))
      else (.refused (s.slot i).state, s)))
  ∧ ∀ (s : State) (p : PortNo) (x : Session) (c : ProfileCopy) (rest : List Task),
    s.link.mode ≠ .shutdown → s.keys.zeroizing = false → s.Sound → s.agenda = .unitHanded p :: rest →
    s.session? p = some x → x.phase = .assigning → x.unitHeld = true → x.profile = some c →
    let b : State := { s with agenda := rest }
    let d := c.contents
    let passes (n : SlotNo × Role × Option KeyKind) : Prop :=
      (n.1 ∈ x.slotHolds ∨ (s.slot n.1).state = .active) ∧ (s.slot n.1).role = some n.2.1
        ∧ (n.2.2 = none ∨ (s.slot n.1).kind = n.2.2)
    let ends (why : HoldReason) : Prop := ∃ u, s.react? = some u
      ∧ SessionOver b u p x (x.endOf .withdrawn .keyUnavailable (some why) (s.stateAfter p))
    ((s.profile c.number).state ≠ .defined → ends .profileUnavailable)
    ∧ ((s.profile c.number).state = .defined → (∃ n ∈ d.needs, ¬ passes n) → ends .keyUnavailable)
    ∧ ((s.profile c.number).state = .defined → (∀ n ∈ d.needs, passes n) →
      let held := d.needs.foldl (fun l n => if n.1 ∈ l then l else l ++ [n.1]) x.slotHolds
      let y : Session := { x with
        phase := .allocating, slotHolds := held, transportKind := (s.slot d.transport).kind }
      let on (h : State) (y : Session) (j : Journal) : State :=
        { h.updPort p (fun q => { q with session := some y }) with journal := j }
      let j := s.journal
      let accepts : Prop := j.state = .working ∧ 4 < j.free ∧ j.waiters = [] ∧ ∀ e ∈ j.runQueue, e.ofPort p = false
      ∃ h : State, h = { b with keys := { s.keys with slots := h.keys.slots } }
        ∧ (∀ i, h.slot i = { s.slot i with
          holders := (s.slot i).holders + (held.count i - x.slotHolds.count i) })
        ∧ (accepts → ∃ u, s.react? = some u ∧ State.Allocates (State.flagged (on h { y with placeAccepted := true }
            { j with promised := j.promised + 1, highNoted := decide (j.free - 1 ≤ j.warnLevel) }) (j.highFlag 1))
          u p { y with placeAccepted := true } c)
        ∧ (¬ accepts → j.state = .working → s.react? = some (State.flagged
          (on h { y with waitFrom := s.now } { j with waiters := j.waiters ++ [p] })
          (if 4 < j.free ∧ j.waiters = [] then 0 else (EventFlag.global .journalFull).single)))
        ∧ (j.state ≠ .working → ∃ u, s.react? = some u
          ∧ SessionOver (on h y j) u p y (y.endOf .withdrawn .noJournal none (s.stateAfter p))
          ∧ u.flagPending (.global .journalFull) = true
          ∧ (j.state = .fault → u.flagPending (.global .journalFault) = true)))

/-- Device numbers. The Key Store answers an allocation with next and the key set number when the slot is ACTIVE with a
range record and a number left; else with EXHAUSTED, NO-RANGE or NOT-ACTIVE, the last also for a double error that the
allocation finds and while a zeroization runs, and with SHUTDOWN after a power-fail warning. A session told that its
place is accepted has its number: next rises by one, RANGE-LOW and RANGE-EXHAUSTED are raised as they fall due, the
issue label is formed and the ISSUE record queued; or it ends WITHDRAWN(RANGE) or WITHDRAWN(KEY-UNAVAILABLE) with its
place given back (R14, R15, R64, R149, R169). -/
def Obligations.NumberAllocated : Prop :=
  (∀ (s : State) (i : SlotNo),
    (s.link.mode = .shutdown → s.allocate i = (.shutdown, s))
    ∧ (s.link.mode ≠ .shutdown → s.keys.zeroizing = true → s.allocate i = (.notActive, s))
    ∧ (s.link.mode ≠ .shutdown → s.keys.zeroizing = false →
      ((s.slot i).mem = SlotMem.clean → (s.allocate i).1 =
        if (s.slot i).state ≠ .active then .notActive
        else match (s.slot i).range with
          | none => .noRange
          | some r => if r.last < r.next then .exhausted else .taken r.keySet r.next)
      ∧ ∀ g : SlotGroup, (g = .state ∨ g = .range) → (s.slot i).state = .active →
        (s.slot i).mem = SlotMem.clean.upd g (fun _ => ⟨0, true, false⟩) →
        ∃ u, s.allocate i = (.notActive, u) ∧ (u.slot i).state = .damaged ∧ (u.slot i).range = (s.slot i).range))
  ∧ ∀ (s : State) (p : PortNo) (x : Session) (c : ProfileCopy) (rest : List Task),
    s.link.mode ≠ .shutdown → s.keys.zeroizing = false → s.Sound → s.agenda = .placeAccepted p :: rest →
    s.session? p = some x → x.phase = .allocating → x.placeAccepted = true → x.device = none → x.profile = some c →
    ∃ u, s.react? = some u ∧ State.Allocates { s with agenda := rest } u p x c

/-- The number that a range record gives next changes only by an allocation, which raises it by exactly one. What a
command but a reset does before its consequences leaves every range record as it is, or discards it; and a consequence
that changes one is the taking of a unit or of a place by one session, which then has the number (R14). -/
def Obligations.NextRisesByAllocation : Prop :=
  (∀ (c : Instr) (s t : State), isReset c = false → exec c s = .next t →
    ∃ u : State, (t = u ∨ t = u.settle) ∧ ∀ (i : SlotNo) (r r' : RangeRecord),
      (s.slot i).range = some r → (u.slot i).range = some r' → r' = r)
  ∧ ∀ s t : State, s.react? = some t → ∀ (i : SlotNo) (r r' : RangeRecord),
    (s.slot i).range = some r → (t.slot i).range = some r' → r' ≠ r →
    r.next ≤ r.last ∧ r' = { r with next := r.next + 1, warned := r.warned || decide (r.last - r.next ≤ r.warn) }
    ∧ (∀ (k : SlotNo) (q q' : RangeRecord), k ≠ i → (s.slot k).range = some q → (t.slot k).range = some q' → q' = q)
    ∧ ∃ p : PortNo, (s.agenda.head? = some (.unitHanded p) ∨ s.agenda.head? = some (.placeAccepted p))
      ∧ (t.session? p).bind (·.device) = some r.next

/-! ## Custody Unit -/

/-- CUST.OPEN under the window, with TAMPER deasserted, no assembly in progress and two places accepted, opens an EMPTY
slot without holders: the slot is ASSEMBLING with role, kind and label, the assembly record is created with its limit
900 s ahead, and ASSEMBLY-OPENED is queued. The first of these that holds refuses it: a slot, role or kind code out of
range, a pairing not allowed, a label or a number of parts not taken, BAD-VALUE; a zeroization running or TAMPER
asserted, TAMPERED; an assembly in progress, WRONG-STATE; two places not accepted, JOURNAL-FULL; another slot,
WRONG-STATE with both places given back, the fall of the free count having been judged for the warning (R2, R36, R168,
R170). That line A's custodian stands first in the record, which fields the reply gives of the assembly and their widths
(seconds left 2 bytes, part and refusal counts 1 byte) are the model's choices, log entry 19. -/
def Obligations.AssemblyOpened : Prop :=
  (∀ (s : State) (tag : Byte) (params : List Byte), s.Takes → params.length = 15 →
    (¬ ∃ (i : SlotNo) (role : Role) (kind : KeyKind), number params 0 1 = i.val ∧ number params 1 1 = role.code
      ∧ number params 2 1 = kind.code ∧ role.allows kind = true ∧ (field params 3 8).all printable = true
      ∧ (number params 14 1 = 2 ∨ number params 14 1 = 3)) →
    exec (.custOpen tag params) s = .next (State.settle (s.replied 4 1 tag params .badValue [])))
  ∧ ∀ (s : State) (tag : Byte) (params : List Byte) (i : SlotNo) (role : Role) (kind : KeyKind) (a b : Nat),
    s.Takes → s.Sound → s.WindowOf a b → params.length = 15 → number params 0 1 = i.val →
    number params 1 1 = role.code → number params 2 1 = kind.code → role.allows kind = true →
    (field params 3 8).all printable = true →
    (number params 14 1 = 2 ∨ number params 14 1 = 3) →
    let refused (t : State) (st : Status) : Prop :=
      exec (.custOpen tag params) s = .next (State.settle (t.replied 4 1 tag params st []))
    let whole : Prop := s.keys.zeroizing = false ∧ s.pins.tamper = false
    let free : Prop := (s.slot i).state = .empty ∧ (s.slot i).holders = 0
    let label := field params 3 8
    let expected := field params 11 3
    let needed := number params 14 1
    let assembly : Assembly := ⟨i, role, kind, label, expected, needed, [], 0, .collecting, s.stamp, s.now + 900, false⟩
    let fields := be 1 i.val ++ be 1 role.code ++ be 1 kind.code ++ label ++ expected ++ be 1 needed
    (¬ whole → refused s .tampered)
    ∧ (whole → s.custody.assembly.isSome = true → refused s .wrongState)
    ∧ (whole → s.custody.assembly = none → ¬ s.RoomFor 2 → refused s.placeRefused .journalFull)
    ∧ (whole → s.custody.assembly = none → s.RoomFor 2 →
      (¬ free → refused (State.flagged { s with journal := { s.journal with
        highNoted := decide (s.journal.free ≤ s.journal.warnLevel) } } (s.journal.highFlag 2)) .wrongState)
      ∧ (free → exec (.custOpen tag params) s = .next (State.settle (State.replied (State.recorded
        { s.setSlot i { s.slot i with
            state := .assembling, role := some role, kind := some kind, label := some label } with
          custody := { s.custody with assembly := some assembly } }
        2 ⟨.assemblyOpened, s.stamp, a, b, fields⟩ 0) 4 1 tag params .ok
        (fields ++ [1, 0] ++ s.stamp.bytes ++ be 2 900 ++ [0])))))

/-- CUST.CANCEL with no assembly is refused WRONG-STATE. An assembly fails by CUST.CANCEL in either phase, and at its
limit while COLLECTING with no completing component under check: the slot is EMPTY again and the failure has the effects
of R42, the RESULTs that answer the components of the intake included. At the limit with a completing component under
check the failure waits, and in COMBINING the limit has no effect (R37, R42, R43). That those RESULTs report counts of 0
is log entry 13, and where the refusals stand in the record log entry 19. -/
def Obligations.AssemblyEnds : Prop :=
  (∀ (s : State) (tag : Byte), s.Takes → s.custody.assembly = none →
    exec (.custCancel tag [0]) s = .next (State.settle (s.replied 4 2 tag [0] .wrongState [])))
  ∧ ∀ (s : State) (a : Assembly), s.Sound → s.custody.assembly = some a → (s.slot a.slot).state = .assembling →
    (∀ tag : Byte, s.Takes → ∃ u : State, AssemblyFailed s u a .cancelled
      ∧ exec (.custCancel tag [0]) s = .next (State.settle (u.replied 4 2 tag [0] .ok (be 1 a.slot.val))))
    ∧ (s.link.mode ≠ .shutdown →
      (a.phase = .collecting → s.completingUnderCheck = false → ∃ u : State, AssemblyFailed s u a .timeout
        ∧ exec .assemblyLimitEnd s = .next (State.settle u))
      ∧ (a.phase = .collecting → s.completingUnderCheck = true → exec .assemblyLimitEnd s =
        .next { s with custody := { s.custody with assembly := some { a with limitPassed := true } } })
      ∧ (a.phase = .combining → exec .assemblyLimitEnd s = .next s))

/-- CUST.CLOSE closes an open window, raising AUTH-CLOSED, sets the reopen bar either way and reports whether the window
was open; the window's expiry closes it and sets the bar; a presence lifetime's end ends the line's presence, and with
it an open window, the bar standing. None of them touches an assembly. A lifetime's end taken after a PRESENCE that came
with it finds the lifetime restarted, and the presence goes on (R31, R33, R35). That an expiry with no window and a
lifetime's end with no presence change nothing is the model's choice, log entry 1; so is that an end is taken for that
of an earlier lifetime or window when the one it finds began in the same second, log entry 7. -/
def Obligations.WindowCloses : Prop :=
  ∀ s : State,
    let closed := { s with custody := { s.custody with window := none, reopenBar := true } }
    (∀ tag : Byte, s.Takes → exec (.custClose tag [0]) s = .next (State.replied
      (if s.custody.window.isSome then State.flagged closed (EventFlag.global .authClosed).single else closed)
      4 3 tag [0] .ok [boolByte s.custody.window.isSome]))
    ∧ (s.link.mode ≠ .shutdown → exec .windowExpiry s = .next (match s.custody.window with
      | none => s
      | some w => if w.openedAt = s.now then s else State.flagged closed (EventFlag.global .authClosed).single))
    ∧ ∀ l : Line,
      (s.link.mode ≠ .shutdown →
        let gone : State := s.updLine l (fun x => { x with presence := none })
        exec (.presenceLifetimeEnd l) s = .next (match (s.custody.line l).presence with
          | none => s
          | some x =>
            if x.lifetimeEnd = s.now + 600 then s
            else if s.custody.window = none then gone
            else State.flagged { gone with custody := { gone.custody with window := none } }
              (EventFlag.global .authClosed).single))
      ∧ ∀ (c : Byte) (t : State), s.LineHears l → 1 ≤ c.toNat → c.toNat ≤ 99 → s.keys.zeroizing = false →
        s.present? (otherLine l) ≠ some c.toNat → exec (.padPresence l c) s = .next t →
        exec (.presenceLifetimeEnd l) t = .next t ∧ t.present? l = some c.toNat

/-- A PRESENCE with a number in range. While a zeroization runs it is refused TAMPERED, and with the other line's
custodian SAME-CUSTODIAN, nothing else changing. Else the line's presence
has that number and a lifetime of 600 s from now; one begun clears the reopen bar and ends the old presence with an
open window. The window then opens, with a place accepted and AUTH-OPENED queued, when both lines are present and
the presence was begun or the bar is clear; with no place it stays CLOSED and JOURNAL-FULL is raised. The RESULT is
ACCEPTED (R29, R32, R33). That line A's number stands first in the record is the model's choice, log entry 19. -/
def Obligations.PresenceTaken : Prop :=
  ∀ (s : State) (l : Line) (c : Byte), s.custody.Ok → s.LineHears l → 1 ≤ c.toNat → c.toNat ≤ 99 →
    let counts : List Byte := match s.custody.assembly with
      | some a => be 1 a.parts.length ++ be 1 a.needed ++ be 1 a.refusals
      | none => [0, 0, 0]
    let refused (why : Byte) : Prop := exec (.padPresence l c) s = .next (State.settle (s.updLine l (fun x => { x with
      sent := x.sent ++ [padFrame ([0x81, 0x01, 0x01, why] ++ be 1 ((s.present? l).getD 0) ++ counts)] })))
    (s.keys.zeroizing = true → refused 9)
    ∧ (s.keys.zeroizing = false → s.present? (otherLine l) = some c.toNat → refused 2)
    ∧ (s.keys.zeroizing = false → s.present? (otherLine l) ≠ some c.toNat → ∃ u : State,
      exec (.padPresence l c) s = .next (State.settle u)
      ∧ (u.custody.line l).presence = some ⟨c.toNat, s.now + 600⟩
      ∧ u.custody.line (otherLine l) = s.custody.line (otherLine l)
      ∧ (u.custody.line l).sent = (s.custody.line l).sent ++ [padFrame ([0x81, 0x01, 0x00, 0x00, c] ++ counts)]
      ∧ u.keys = s.keys ∧ u.engine = s.engine ∧ u.profiles = s.profiles ∧ u.entries = s.entries ∧ u.orders = s.orders
      ∧ u.ports = s.ports ∧ u.custody.assembly = s.custody.assembly ∧ u.custody.intake = s.custody.intake
      ∧ (s.present? l = some c.toNat → u.custody.reopenBar = s.custody.reopenBar
        ∧ (s.custody.window.isSome = true → u.custody.window = s.custody.window ∧ u.journal = s.journal)
        ∧ (s.custody.window = none → s.custody.reopenBar = true → u.custody.window = none ∧ u.journal = s.journal))
      ∧ (s.present? l ≠ some c.toNat → u.custody.reopenBar = false
        ∧ (s.custody.window.isSome = true → u.flagPending (.global .authClosed) = true))
      ∧ (s.present? (otherLine l) = none → s.custody.window = none → u.custody.window = none ∧ u.journal = s.journal)
      ∧ ∀ b : Nat, s.present? (otherLine l) = some b →
        (s.present? l ≠ some c.toNat ∨ (s.custody.window = none ∧ s.custody.reopenBar = false)) →
        let na := match l with | .a => c.toNat | .b => b
        let nb := match l with | .a => b | .b => c.toNat
        (s.RoomFor 1 → u.custody.window = some ⟨s.stamp, s.now, na, nb⟩
          ∧ u.journal = s.journal.accepted 1 [⟨.authOpened, s.stamp, na, nb, []⟩]
          ∧ u.flagPending (.global .authOpen) = true)
        ∧ (¬ s.RoomFor 1 → u.custody.window = none ∧ u.journal = s.journal
          ∧ u.flagPending (.global .journalFull) = true))

/-- A WITHDRAW on a line that hears. With a present custodian it ends the presence, and with it an open window with
AUTH-CLOSED, the bar standing, and is answered ACCEPTED with the line reported empty; with none it is refused
NOT-PRESENT. It touches neither the assembly nor a component in the intake (R30). -/
def Obligations.WithdrawTaken : Prop :=
  ∀ (s : State) (l : Line), s.LineHears l →
    let counts : List Byte := match s.custody.assembly with
      | some a => be 1 a.parts.length ++ be 1 a.needed ++ be 1 a.refusals
      | none => [0, 0, 0]
    let answered (b : State) (outcome : List Byte) : State := b.updLine l (fun x => { x with
      sent := x.sent ++ [padFrame ([0x81, 0x03] ++ outcome ++ [0] ++ counts)] })
    let gone : State := s.updLine l (fun x => { x with presence := none })
    (s.present? l = none → exec (.padWithdraw l) s = .next (answered s [1, 3]))
    ∧ ((s.present? l).isSome = true → s.custody.window = none →
      exec (.padWithdraw l) s = .next (answered gone [0, 0]))
    ∧ ((s.present? l).isSome = true → s.custody.window.isSome = true →
      exec (.padWithdraw l) s = .next (answered (State.flagged { gone with custody := { gone.custody with window := none } }
        (EventFlag.global .authClosed).single) [0, 0]))

/-- A COMPONENT of a lawful record joins the intake behind those waiting, and the oldest is taken up when none is
under check (R38, R39). -/
def Obligations.ComponentJoins : Prop :=
  ∀ (s : State) (l : Line) (c : Byte) (component stated : List Byte), s.LineHears l → 1 ≤ c.toNat → c.toNat ≤ 99 →
    (component.length = 16 ∨ component.length = 32) → stated.length = 3 →
    exec (.padComponent l c component stated) s = .next (State.settle { s with custody := { s.custody with
      intake := s.custody.intake ++ [⟨l, c.toNat, component, stated⟩] } })

/-- The checks of a component taken up, in the order of R39, with the reasons of R28; one that passes goes under
check with a CHECK job on requester 16. -/
def Obligations.ComponentChecks : Prop :=
  ∀ (s : State) (e : IntakeEntry) (rest : List IntakeEntry), s.custody.intake = e :: rest →
    s.custody.underCheck = false →
    let refused (why : PadReason) : Prop := s.takeUp? = some (State.sendResult
      { s with custody := { s.custody with intake := rest } } e.line 0x02 (some why))
    if s.keys.zeroizing = true ∨ s.pins.tamper = true then refused .tampered
    else if s.present? e.line ≠ some e.custodian then refused .notPresent
    else match s.custody.assembly with
      | none => refused .noAssembly
      | some a =>
        if a.phase = .combining then refused .noAssembly
        else if e.component.length ≠ a.kind.length then refused .length
        else if ∃ q ∈ a.parts, q.custodian = e.custodian then refused .duplicate
        else if a.parts.length + 1 = a.needed ∧ ∀ q ∈ a.parts, q.line = e.line then refused .lineBalance
        else s.takeUp? = some { s with
          custody := { s.custody with underCheck := true }
          engine := s.engine.submit ⟨custodyRequester, .component, .check⟩ }

/-- The end of the CHECK job of a component while COLLECTING. With the stated check value the part is accepted and the
RESULT sent, and the last part needed begins combining with its CHECK job; with another the component is refused with
CHECK. At the third refusal the assembly then fails with CHECK-LIMIT, and after the limit has passed with TIMEOUT (R37,
R40 to R42). That the RESULT of that refusal comes before the failure, and that the third refusal gives CHECK-LIMIT also
after the limit, is log entry 13; where the refusals stand in the record is log entry 19. -/
def Obligations.PartChecked : Prop :=
  ∀ (s : State) (f : InFlight) (a : Assembly) (e : IntakeEntry) (rest : List IntakeEntry), s.link.mode = .ready →
    s.engine.inFlight = some f → f.job = ⟨custodyRequester, .component, .check⟩ → f.mark = .none →
    s.custody.assembly = some a → a.phase = .collecting → s.custody.intake = e :: rest →
    let computed := checkValue f.kind f.key
    let idle : State := { s with engine := s.engine.finish f }
    let with' (b : Assembly) : State := { idle with custody := { s.custody with
      assembly := some b, intake := rest, underCheck := false } }
    let part : Part := ⟨e.custodian, e.line, e.component, computed⟩
    (computed = e.stated → a.parts.length + 1 ≠ a.needed → exec .jobEnd s = .next (State.settle (State.sendResult
      (with' { a with parts := a.parts ++ [part] }) e.line 0x02 none)))
    ∧ (computed = e.stated → a.parts.length + 1 = a.needed → exec .jobEnd s = .next (State.settle (State.updEngine
      (State.sendResult (with' { a with parts := a.parts ++ [part], phase := .combining, limitPassed := false })
        e.line 0x02 none) (·.submit ⟨custodyRequester, .combined, .check⟩))))
    ∧ (computed ≠ e.stated → a.refusals + 1 < 3 → a.limitPassed = false → exec .jobEnd s = .next (State.settle
      (State.sendResult (with' { a with refusals := a.refusals + 1 }) e.line 0x02 (some .check))))
    ∧ (s.Sound → (s.slot a.slot).state = .assembling → computed ≠ e.stated →
      let b : Assembly := { a with refusals := a.refusals + 1 }
      let fails (why : AssemblyEnd) : Prop := ∃ u : State,
        AssemblyFailed (State.sendResult (with' b) e.line 0x02 (some .check)) u b why ∧ exec .jobEnd s = .next (State.settle u)
      (3 ≤ a.refusals + 1 → fails .checkLimit) ∧ (a.refusals + 1 < 3 → a.limitPassed = true → fails .timeout))

/-- The end of the CHECK job of the combined key. Equal to the expected check value, and the slot still ASSEMBLING: the
slot is ACTIVE with the exclusive-or of the components (parity adjusted for D16), the check value, the contributors and
the time, SLOT-ACTIVATED is queued into the kept place and ASSEMBLY-DONE raised. Another value fails the assembly with
CHECK. With an equal one the placement is refused on a slot that has become EMPTY, which fails the assembly with
ZEROIZED, or DAMAGED, which fails it with CHECK, the slot as it was (R3, R41, R42). That the RESULTs which then answer
the intake report counts of 0 is log entry 13, and where the refusals stand in the record log entry 19. -/
def Obligations.KeyPlaced : Prop :=
  ∀ (s : State) (f : InFlight) (a : Assembly), s.link.mode = .ready → s.Sound → s.engine.inFlight = some f →
    f.job = ⟨custodyRequester, .combined, .check⟩ → f.mark = .none → s.custody.assembly = some a →
    let computed := checkValue f.kind f.key
    let idle : State := { s with engine := s.engine.finish f }
    let givers : List Contributor := a.parts.map (fun q => ⟨q.custodian, q.line⟩)
    let fails (why : AssemblyEnd) : Prop := ∃ u : State, AssemblyFailed idle u a why
      ∧ exec .jobEnd s = .next (State.settle u)
    (computed = a.expected → (s.slot a.slot).state = .assembling → exec .jobEnd s = .next (State.settle (State.flagged
      { idle.setSlot a.slot { s.slot a.slot with
          state := .active, holders := 0, key := combineParts a.kind (a.parts.map (·.component))
          check := some computed, contributors := givers, activation := some s.stamp, range := none } with
        journal := { s.journal with runQueue := s.journal.runQueue ++ [.custody ⟨.slotActivated, s.stamp, 0, 0,
          be 1 a.slot.val ++ be 1 a.role.code ++ be 1 a.kind.code ++ a.label ++ computed
            ++ counted Contributor.bytes givers⟩] }
        custody := { s.custody with assembly := none, lastEnding := some ⟨a.slot, .done, s.link.seconds⟩ } }
      (EventFlag.global .assemblyDone).single)))
    ∧ (computed = a.expected → (s.slot a.slot).state = .empty → fails .zeroized)
    ∧ (computed = a.expected → (s.slot a.slot).state = .damaged → fails .check)
    ∧ (computed ≠ a.expected → fails .check)

/-- Bad frames on a custodian line that hears: a wrong CRC, an unknown type, a wrong length for the type or a number
out of range, and a gap inside a frame, are answered RESULT(FRAME) with PAD-ERROR; a bad body length makes the line
ignore every byte until quiet, with PAD-ERROR, and the quiet answers RESULT(FRAME). A frame begun before the line's
earlier record is answered is dropped with PAD-ERROR alone, and in STARTING one is dropped without a flag; the end of
one of a bad length is found by the quiet in the same way, without an answer (R27). That a bad length raises PAD-ERROR at
once and its quiet raises nothing is log entry 13. -/
def Obligations.PadErrors : Prop :=
  ∀ (s : State) (l : Line),
    let padError (b : State) : State := b.flagged (EventFlag.global .padError).single
    let bad : State := padError (s.sendResult l 0xFF (some .frame))
    let with' (r : PadReceiver) : State := s.updLine l (fun x => { x with receiver := r })
    (s.LineHears l →
      (∀ (body : List Byte) (crc : BitVec 16), padLengthOk body.length = true →
        (crc ≠ framedCrc body ∨ padRecordOk body = false) → exec (.padBadFrame l body crc) s = .next bad)
      ∧ exec (.padFrameGap l) s = .next bad
      ∧ ∀ n : BitVec 16, n ≠ 1 → n ≠ 2 → n ≠ 21 → n ≠ 37 →
        exec (.padBadLength l n) s = .next (padError (with' .awaitingQuiet)))
    ∧ (s.link.mode = .ready → (s.custody.line l).receiver = .awaitingQuiet → exec (.padQuiet l) s = .next
      (State.sendResult (with' .listening) l 0xFF (some .frame)))
    ∧ (s.link.mode = .ready → (s.custody.line l).receiver = .listening → s.lineBusy l = true →
      exec (.padFrameUnanswered l) s = .next (padError s)
      ∧ ∀ n : BitVec 16, n ≠ 1 → n ≠ 2 → n ≠ 21 → n ≠ 37 →
        exec (.padBadLength l n) s = .next (padError (with' .droppingUntilQuiet)))
    ∧ (s.link.mode = .starting → (s.custody.line l).receiver = .listening →
      ∀ n : BitVec 16, n ≠ 1 → n ≠ 2 → n ≠ 21 → n ≠ 37 →
        exec (.padBadLength l n) s = .next (with' .droppingUntilQuiet))
    ∧ (s.link.mode ≠ .shutdown → (s.custody.line l).receiver = .droppingUntilQuiet →
      exec (.padQuiet l) s = .next (with' .listening))
    ∧ (s.link.mode = .ready → (s.custody.line l).receiver ≠ .listening →
      (∀ (body : List Byte) (crc : BitVec 16), exec (.padBadFrame l body crc) s = .next s)
      ∧ exec (.padFrameGap l) s = .next s)

/-! ## Cipher Engine -/

/-- ENG.HOLD makes HOST present and reports whether it was, the requester in flight and the jobs waiting; ENG.RESUME
clears it and reports the causes that remain, and the arbiter may grant (R60). The width of the number of jobs is the
model's choice, log entry 19, and so is that the reply is formed before the grant, log entry 6. -/
def Obligations.EngineHeldResumed : Prop :=
  ∀ (s : State) (tag : Byte), s.Takes →
    exec (.engHold tag [0]) s = .next (State.replied { s with engine := { s.engine with holdHost := true } } 5 1 tag [0]
      .ok ([boolByte s.engine.holdHost] ++ present 1 (s.engine.inFlight.map (fun f => be 1 f.job.requester.val))
        ++ be 1 s.engine.waitingCount))
    ∧ exec (.engResume tag [0]) s = .next (State.settle (State.replied
      { s with engine := { s.engine with holdHost := false } } 5 2 tag [0] .ok
      ({ s.engine with holdHost := false } : Engine).holdBytes))

/-- A job's end leaves the engine idle with the pointer and the holds as they were; the completed-jobs count rises by
one, saturating, for an unmarked job alone. A marked job that is no SLOT.VERIFY job has no other effect: its result
is dropped (R56, R58, R59). -/
def Obligations.JobEnds : Prop :=
  ∀ (s : State) (f : InFlight), s.engine.inFlight = some f →
    (∃ u : State, exec .jobEnd s = .next (State.settle u) ∧ u.engine.inFlight = none
      ∧ u.engine.pointer = s.engine.pointer ∧ u.engine.holdHost = s.engine.holdHost
      ∧ u.engine.holdZeroize = s.engine.holdZeroize ∧ u.engine.holdShutdown = s.engine.holdShutdown
      ∧ u.engine.completed = if f.mark = .none then min 0xFFFFFFFF (s.engine.completed + 1) else s.engine.completed)
    ∧ (f.mark ≠ .none → f.job.isVerify = false →
      exec .jobEnd s = .next (State.settle { s with engine := s.engine.finish f }))

/-- The arbiter grants exactly when the engine has no job in flight, no hold cause is present and a job waits; the
job granted is that of the first requester with one from the pointer on, going on from 16 to 0, and the pointer
moves past the requester granted. The job is then in flight, unmarked, with its key gathered, from its slot, its port's
key-area position, the component under check or the combined components, and with the WK and AK of its port (R12, R54,
R55). -/
def Obligations.ArbiterTurns : Prop :=
  (∀ e : Engine,
    (e.granted?.isSome = true ↔ e.inFlight = none ∧ e.held = false ∧ ∃ r, (e.waiting.look r).isSome = true)
    ∧ (∀ j, e.granted? = some j → ∃ r, e.waiting.look r = some j ∧
      ∀ q, (q.val + 17 - e.pointer.val) % 17 < (r.val + 17 - e.pointer.val) % 17 → e.waiting.look q = none)
    ∧ ∀ j : Job, (e.grant j).pointer.val = (j.requester.val + 1) % 17 ∧ (e.grant j).waiting.look j.requester = none
      ∧ ∀ q, q ≠ j.requester → (e.grant j).waiting.look q = e.waiting.look q)
  ∧ ∀ (s : State) (j : Job), s.link.mode ≠ .shutdown → s.agenda = [] → s.takeUp? = none → s.engine.granted? = some j →
    let held (area : KeyArea → Option HeldKey) : List Byte :=
      if h : j.requester.val < 16 then ((area (s.port ⟨j.requester.val, h⟩).keyArea).map (·.bytes)).getD [] else []
    let flies (kind : KeyKind) (key : List Byte) : Prop := s.react? = some { s with engine := { s.engine.grant j with
      inFlight := some ⟨j, kind, key, held (·.wk), held (·.ak), .none⟩ } }
    (∀ (i : SlotNo) (k : KeyKind), j.source = .slot i → (s.slot i).mem = SlotMem.clean →
      ((s.slot i).state = .active ∨ (s.slot i).state = .suspended) → (s.slot i).kind = some k →
      flies k ((s.slot i).key.take k.length))
    ∧ (∀ (p : PortNo) (d : Position) (k : HeldKey), j.requester.val = p.val → j.source = .position d →
      (s.port p).keyArea.get d = some k → flies k.kind k.bytes)
    ∧ ∀ a, s.custody.assembly = some a →
      (∀ e rest, j.source = .component → s.custody.intake = e :: rest → flies a.kind e.component)
      ∧ (j.source = .combined → flies a.kind (combineParts a.kind (a.parts.map (·.component))))

/-- The jobs of a session. Told that its ISSUE record is programmed it enters DERIVING. Its jobs are WK, AK, then for
each item the DERIVE of a DERIVED item, the CHECK and the WRAP, with the inputs of chapter 4. At the end of an unmarked
job a derived key stands in its key-area position (and its item is KEYED), a check value or a load block in its item,
which is CHECKED or WRAPPED; the next job is submitted, or the session enters LOADING and sends its first LOAD, staying
in DERIVING while it awaits a READY. A slot found DAMAGED at a grant, or made so by a double error in its key, ends the
session SPOILED(KEY-DAMAGED) (R12, R47 to R49, R57, R65 to R77, R150, R152, R153). -/
def Obligations.SessionJobs : Prop :=
  ∀ (s : State) (p : PortNo) (x : Session) (c : ProfileCopy), s.link.mode ≠ .shutdown → s.session? p = some x →
    x.profile = some c →
    let r : Fin 17 := ⟨p.val, by omega⟩
    let open' : Option Nat := x.items.findIdx? (fun e => !(e.state == .wrapped || e.state == .loaded))
    (x.phase = .allocating → x.record.isSome = true → ∀ rest, s.agenda = .issueProgrammed p :: rest →
      s.react? = some (State.derives { s with agenda := rest } p { x with phase := .deriving }))
    ∧ (∀ area : KeyArea, ∀ k : KeyKind, x.transportKind = some k →
      let serial := x.terminal.serial
      let twelve := List.replicate (12 - serial.length) 0x30 ++ serial.drop (serial.length - 12)
      let label := (x.label.getD []).take 8
      let blocks (kind : KeyKind) (tail : List Byte) : List (List Byte) := if kind = .a32 then [1 :: tail, 2 :: tail] else [1 :: tail]
      let transport (usage : Nat) (dest : Position) : Job := ⟨r, .slot c.contents.transport,
        .derive (blocks k (be 1 k.code ++ be 2 usage ++ twelve)) k dest⟩
      (area.wk = none → x.nextJob p area = some (transport 0x7701 .wk))
      ∧ (area.wk.isSome = true → area.ak = none → x.nextJob p area = some (transport 0x7702 .ak))
      ∧ (area.wk.isSome = true → area.ak.isSome = true →
        (open' = none → x.nextJob p area = none)
        ∧ ∀ n i e, open' = some n → c.contents.items[n]? = some i → x.items[n]? = some e →
          let key : KeySource := match i.source with | .fixed q => .slot q | .derived => .position (itemPosition n)
          let bits : List Byte := be 2 (8 * i.kind.length)
          (e.state = .opened → i.source = .derived → x.nextJob p area = some ⟨r, .slot c.contents.root, .derive
            (blocks i.kind (be 1 i.kind.code ++ be 2 i.usage ++ label ++ [0, 0] ++ bits)) i.kind (itemPosition n)⟩)
          ∧ ((e.state = .opened ∧ i.source ≠ .derived ∨ e.state = .keyed) → x.nextJob p area = some ⟨r, key, .check⟩)
          ∧ (e.state = .checked → x.nextJob p area = some ⟨r, key, .wrap ([1] ++ be 1 i.index ++ be 1 i.kind.code
            ++ be 1 (n + 1) ++ be 2 i.usage ++ bits) (e.check.getD [])⟩)))
    ∧ (∀ f : InFlight, s.engine.inFlight = some f → f.mark = .none → f.job.requester = r →
      let idle : State := { s with engine := s.engine.finish f }
      let at' (y : Session) (h : List Byte → ItemEntry → ItemEntry) (n : Nat) (out : List Byte) : Session :=
        { y with items := y.items.modify n (h out) }
      (∀ blocks kind dest, f.job.work = .derive blocks kind dest →
        let cipher := blocks.flatMap (aesEncrypt f.key)
        let b : State := idle.updPort p (fun q => { q with
          keyArea := q.keyArea.set dest ⟨kind, if kind = .d16 then adjustParity cipher else cipher⟩ })
        (dest = .wk ∨ dest = .ak → exec .jobEnd s = .next (State.settle (b.derives p x)))
        ∧ ∀ n, dest ≠ .wk → dest ≠ .ak → open' = some n → exec .jobEnd s = .next (State.settle (b.derives p
          (at' x (fun _ e => { e with state := .keyed }) n []))))
      ∧ (∀ n, f.job.work = .check → open' = some n → exec .jobEnd s = .next (State.settle (idle.derives p
        (at' x (fun out e => { e with state := .checked, check := some out }) n
          (if f.kind = .d16 then (tdesEncrypt f.key (List.replicate 8 0)).take 3
          else (aesEncrypt f.key (List.replicate 16 0)).take 3)))))
      ∧ ∀ n header check, f.job.work = .wrap header check → open' = some n →
        (f.key.length = 16 ∨ f.key.length = 32) →
        let c1 := aesEncrypt f.wk (xorBytes (f.key.take 16) (header ++ List.replicate 8 0))
        let c2 := aesEncrypt f.wk (xorBytes (f.key.drop 16) c1)
        let mask := header ++ check ++ List.replicate 5 0
        let block := if f.key.length = 16 then header ++ c1 ++ (aesEncrypt f.ak (xorBytes c1 mask)).take 4
          else header ++ c1 ++ c2 ++ (aesEncrypt f.ak (xorBytes c2 mask)).take 4
        exec .jobEnd s = .next (State.settle (idle.derives p
          (at' x (fun out e => { e with state := .wrapped, block := some out }) n block))))
    ∧ ∀ (j : Job) (i : SlotNo), s.agenda = [] → s.takeUp? = none → s.engine.granted? = some j → j.requester = r →
      j.source = .slot i → s.StatesSound →
      let b : State := { s with engine := (s.engine.grant j).promote r }
      let ends (b : State) : Prop := ∃ u, s.react? = some u
        ∧ SessionOver b u p x (x.endOf .spoiled .keyDamaged none (s.stateAfter p))
      ((s.slot i).state = .damaged →
        ((s.slot i).mem = SlotMem.clean ∨ (s.slot i).mem = SlotMem.clean.upd .key (fun _ => ⟨0, true, true⟩)) → ends b)
      ∧ ((s.slot i).state = .active ∨ (s.slot i).state = .suspended →
        (s.slot i).mem = SlotMem.clean.upd .key (fun _ => ⟨0, true, false⟩) →
        ends (State.flagged (b.setSlot i { s.slot i with
          state := .damaged, mem := SlotMem.clean.upd .key (fun _ => ⟨0, true, true⟩) }) (EventFlag.global .keyDamaged).single))

/-! ## Profile Table and Recognition Table -/

/-- PROF.WRITE under the window of a profile without holders, with contents R85 takes: the profile is DEFINED with the
contents, PROFILE-WRITTEN is queued and the reply reports the state before. It is refused IN-USE while the profile has
holders, BAD-VALUE with the failing part, 0 for the heading or the item's number, and the cause of the first check of R85
that fails, and JOURNAL-FULL with no place accepted (R84 to R86). That line A's custodian stands first in the record is
the model's choice, log entry 19. -/
def Obligations.ProfileWritten : Prop :=
  ∀ (s : State) (tag : Byte) (params : List Byte) (n : Fin 16) (a b : Nat), s.Takes → s.Sound →
    s.WindowOf a b → params.length = 37 → number params 0 1 = n.val →
    let r := ProfileRequest.read params
    let refused (t : State) (st : Status) (result : List Byte) : Prop :=
      exec (.profWrite tag params) s = .next (State.settle (t.replied 6 1 tag params st result))
    let invalid (part : Nat) (c : ProfileCause) : Prop := refused s .badValue (be 1 part ++ be 1 c.code)
    (0 < (s.profile n).holders → refused s .inUse [])
    ∧ ((s.profile n).holders = 0 →
      let heading : Prop := r.label.all printable = true ∧ 1 ≤ r.count ∧ r.count ≤ 4 ∧ r.freshOnly ≤ 1
        ∧ r.transport < 32 ∧ r.root < 32
      let slots : Prop := s.SlotFits r.transport .transport none ∧ s.SlotFits r.root .root none
      let sound (k : Nat) : Prop := ∀ m i c, m < k → r.items[m]? = some i → ¬ s.ItemFails (r.items.take m) i c
      (¬ heading → invalid 0 .field)
      ∧ (heading → ¬ slots → invalid 0 .role)
      ∧ (heading → slots →
        (∀ k i c, sound k → r.items[k]? = some i → s.ItemFails (r.items.take k) i c → invalid (k + 1) c)
        ∧ (sound r.items.length → (∀ i ∈ r.items, i.source ≠ 1) → invalid 0 .noDerived))
      ∧ (s.ProfileValid r →
        (¬ s.RoomFor 1 → refused s.placeRefused .journalFull [])
        ∧ (s.RoomFor 1 → exec (.profWrite tag params) s = .next (State.settle (State.replied
          ((s.setProfile n { s.profile n with state := .defined, contents := some r.data }).recorded 1
            ⟨.profileWritten, s.stamp, a, b, profileFields s n r.data⟩ 0) 6 1 tag params .ok
          (be 1 (s.profile n).state.code))))))

/-- PROF.DELETE under the window: refused IN-USE while the profile has holders or an order names it, WRONG-STATE when it
is UNDEFINED, and JOURNAL-FULL with no place accepted; a DEFINED or DAMAGED one becomes UNDEFINED and PROFILE-DELETED is
queued with its state and label (R87). That line A's custodian stands first in the record is the model's choice, log
entry 19. -/
def Obligations.ProfileDeleted : Prop :=
  ∀ (s : State) (tag : Byte) (params : List Byte) (n : Fin 16) (a b : Nat), s.Takes → s.Sound → s.WindowOf a b →
    params.length = 1 → number params 0 1 = n.val →
    (0 < (s.profile n).holders ∨ 0 < s.ordersNaming n →
      exec (.profDelete tag params) s = .next (State.settle (s.replied 6 2 tag params .inUse [])))
    ∧ ((s.profile n).holders = 0 → s.ordersNaming n = 0 → (s.profile n).state = .undefined →
      exec (.profDelete tag params) s = .next (State.settle (s.replied 6 2 tag params .wrongState [])))
    ∧ ((s.profile n).holders = 0 → s.ordersNaming n = 0 → (s.profile n).state ≠ .undefined → ¬ s.RoomFor 1 →
      exec (.profDelete tag params) s = .next (State.settle (s.placeRefused.replied 6 2 tag params .journalFull [])))
    ∧ ((s.profile n).holders = 0 → s.ordersNaming n = 0 → (s.profile n).state ≠ .undefined → s.RoomFor 1 →
      exec (.profDelete tag params) s = .next (State.settle (State.replied
        ((s.setProfile n { s.profile n with state := .undefined, contents := none }).recorded 1
          ⟨.profileDeleted, s.stamp, a, b, be 1 n.val ++ be 1 (s.profile n).state.code
            ++ present 8 ((s.profile n).contents.map (·.label))⟩ 0) 6 2 tag params .ok [])))

/-- MATCH.WRITE under the window rewrites a disabled entry, which is then written, disabled and undamaged, and reports
whether it was written and damaged before; MATCH.ENABLE under the window enables a written, undamaged, disabled entry;
MATCH.DISABLE disables an enabled one without the window. Each queues its record, with the target unreadable where the
control group was lost. The first of these that holds refuses them: MATCH.WRITE of an enabled entry, MATCH.ENABLE of one
not written, enabled or DAMAGED, MATCH.DISABLE of one not enabled, WRONG-STATE; for MATCH.WRITE a prefix length above 8,
a prefix character outside 0x20 to 0x7E or a target above 15, BAD-VALUE; no place accepted, JOURNAL-FULL (R90, R93,
R94). That line A's custodian stands first in the records, the order of the groups in the MATCH-ENABLED and
MATCH-DISABLED records, their presence bytes, and the 00 beyond a serial prefix's length are the model's choices, log
entry 19. -/
def Obligations.EntriesChanged : Prop :=
  ∀ (s : State) (tag : Byte) (params : List Byte) (n : Fin 32), s.Takes → s.Sound → number params 0 1 = n.val →
    let e := s.entry n
    let groups := be 1 n.val ++ present 17 (some (be 4 e.matchValue.toNat ++ be 4 e.mask.toNat
      ++ serialStartField e.serialStart)) ++ if e.targetLost then [2, 0] else present 1 (some (be 1 e.target))
    (∀ a b : Nat, s.WindowOf a b → params.length = 19 →
      let answers (u : State) (st : Status) (result : List Byte) : Prop :=
        exec (.matchWrite tag params) s = .next (State.settle (u.replied 7 2 tag params st result))
      let taken : Prop := number params 9 1 ≤ 8 ∧ number params 18 1 ≤ 15
        ∧ ∀ c ∈ field params 10 (number params 9 1), 0x20 ≤ c.toNat ∧ c.toNat ≤ 0x7E
      (e.enabled = true → answers s .wrongState [])
      ∧ (e.enabled = false → ¬ taken → answers s .badValue [])
      ∧ (e.enabled = false → taken → ¬ s.RoomFor 1 → answers s.placeRefused .journalFull [])
      ∧ (e.enabled = false → taken → s.RoomFor 1 →
        let x : Entry := ⟨true, false, false, number params 18 1, BitVec.ofNat 32 (number params 1 4),
          BitVec.ofNat 32 (number params 5 4), field params 10 (number params 9 1), false, GroupMem.clean, GroupMem.clean⟩
        answers ((s.setEntry n x).recorded 1 ⟨.matchWritten, s.stamp, a, b, be 1 n.val ++ be 4 x.matchValue.toNat
          ++ be 4 x.mask.toNat ++ serialStartField x.serialStart ++ be 1 x.target⟩ 0) .ok
          [boolByte e.written, boolByte e.damaged]))
    ∧ (params.length = 1 →
      (∀ a b : Nat, s.WindowOf a b →
        let answers (u : State) (st : Status) : Prop :=
          exec (.matchEnable tag params) s = .next (State.settle (u.replied 7 3 tag params st []))
        let ready : Prop := e.written = true ∧ e.enabled = false ∧ e.damaged = false
        (¬ ready → answers s .wrongState)
        ∧ (ready → ¬ s.RoomFor 1 → answers s.placeRefused .journalFull)
        ∧ (ready → s.RoomFor 1 →
          answers ((s.setEntry n { e with enabled := true }).recorded 1 ⟨.matchEnabled, s.stamp, a, b, groups⟩ 0) .ok))
      ∧ (let answers (u : State) (st : Status) : Prop :=
          exec (.matchDisable tag params) s = .next (State.settle (u.replied 7 4 tag params st []))
        (e.enabled = false → answers s .wrongState)
        ∧ (e.enabled = true → ¬ s.RoomFor 1 → answers s.placeRefused .journalFull)
        ∧ (e.enabled = true → s.RoomFor 1 →
          answers ((s.setEntry n { e with enabled := false }).recorded 1 ⟨.matchDisabled, s.stamp, 0, 0, groups⟩ 0) .ok)))

/-! ## Order Table -/

/-- ORD.PLACE of a new number for a DEFINED profile, with room in the table: the placement counter rises, the order is
added QUEUED with the whole quantity remaining, and the ports waiting for the profile are served before the reply
(R103). A number, profile, quantity or spoil limit out of range is BAD-VALUE, a number in the table is DUPLICATE, a full
table TABLE-FULL, an UNDEFINED profile NOT-FOUND, a DAMAGED one WRONG-STATE. That the reply is formed before the served
sessions go on, so that its attention fields miss the flags they raise, is the model's choice, log entry 6, and so is
that the number of ports served is 1 byte, log entry 19. -/
def Obligations.OrderPlaced : Prop :=
  (∀ (s : State) (tag : Byte) (params : List Byte), s.Takes → params.length = 6 →
    number params 0 2 = 0 ∨ 16 ≤ number params 2 1 ∨ number params 3 2 = 0 ∨ 9999 < number params 3 2 ∨ 99 < number params 5 1 →
    exec (.ordPlace tag params) s = .next (State.settle (s.replied 8 1 tag params .badValue [])))
  ∧ ∀ (s : State) (tag : Byte) (params : List Byte) (n : Fin 16), s.Takes → s.Sound → params.length = 6 →
    number params 0 2 ≠ 0 → number params 2 1 = n.val → 1 ≤ number params 3 2 → number params 3 2 ≤ 9999 →
    number params 5 1 ≤ 99 →
    let k := number params 0 2
    let refused (st : Status) : Prop := exec (.ordPlace tag params) s = .next (State.settle (s.replied 8 1 tag params st []))
    if (s.order? k).isSome then refused .duplicate
    else if 24 ≤ s.orders.orders.length ∨ 0xFFFFFFFF ≤ s.orders.placements then refused .tableFull
    else match (s.profile n).state with
    | .undefined => refused .notFound
    | .damaged => refused .wrongState
    | .defined =>
      let order : Order := ⟨k, n, number params 3 2, number params 3 2, 0, 0, 0, 0, number params 5 1, .queued, none,
        false, false, s.orders.placements + 1, []⟩
      let placed : State := { s with orders := { s.orders with
        placements := s.orders.placements + 1, orders := s.orders.orders ++ [order] } }
      let served := placed.serveProfile n
      exec (.ordPlace tag params) s = .next (State.settle (served.replied 8 1 tag params .ok
        (be 4 (s.orders.placements + 1) ++ be 1 ((s.waitingList n).length - (served.waitingList n).length)
          ++ ((served.order? k).map Order.bytes).getD [])))

/-- ORD.AMEND of a QUEUED, RUNNING or HELD order takes the quantity asked for, raised to what is done, in progress and
abandoned (at least 1) or lowered to 9999, and the spoil limit; remaining is the rest, the test of R100 is made, and the
waiting ports are served when remaining rose; a spoil limit above 99 is refused BAD-VALUE, an order in another state
WRONG-STATE (R104). The codes 1 raised and 2 lowered of the reply are the model's choice, log entry 19, and so is that
it is formed before the served sessions go on, log entry 6. -/
def Obligations.OrderAmended : Prop :=
  ∀ (s : State) (tag : Byte) (params : List Byte) (o : Order), s.Takes → s.orders.Ok → params.length = 5 →
    s.order? (number params 0 2) = some o →
    if 99 < number params 4 1 then exec (.ordAmend tag params) s = .next (State.settle (s.replied 8 2 tag params .badValue []))
    else if o.state = .queued ∨ o.state = .running ∨ o.state = .held then
      let requested := number params 2 2
      let done := o.completed + o.inProgress + o.abandoned
      let taken := max (max 1 done) (min 9999 requested)
      let x : Order := { o with quantity := taken, remaining := taken - done, spoilLimit := number params 4 1 }
      let u := if o.remaining < x.remaining then (s.withTested x).servedFor x else s.withTested x
      exec (.ordAmend tag params) s = .next (State.settle (u.replied 8 2 tag params .ok
        (be 2 taken ++ present 1 (if requested < taken then some [1] else if taken < requested then some [2] else none)
          ++ ((u.order? o.number).map Order.bytes).getD [])))
    else exec (.ordAmend tag params) s = .next (State.settle (s.replied 8 2 tag params .wrongState []))

/-- ORD.HOLD makes a QUEUED, RUNNING or HELD order HELD(HOST) and reports the reason it replaced, if any; no flag is
raised. ORD.RELEASE takes a HELD order to DRAINING, RUNNING or QUEUED by abort-requested and started, makes the test of
R100 and serves the waiting ports. Both refuse the other states with WRONG-STATE (R105, R106). That ORD.HOLD reports the
reason replaced before the order, and ORD.RELEASE its reason without a presence byte, is the model's choice, log entry
19, and so is that its reply is formed before the served sessions go on, log entry 6. -/
def Obligations.OrdersHeldReleased : Prop :=
  ∀ (s : State) (tag : Byte) (params : List Byte) (o : Order), s.Takes → s.orders.Ok → params.length = 2 →
    s.order? (number params 0 2) = some o →
    (if o.state = .queued ∨ o.state = .running ∨ o.state = .held then
      let x : Order := { o with state := .held, hold := some .host }
      exec (.ordHold tag params) s = .next (State.replied (s.updOrder o.number (fun _ => x)) 8 3 tag params .ok
        (present 1 (o.hold.map (fun h => be 1 h.code)) ++ x.bytes))
    else exec (.ordHold tag params) s = .next (s.replied 8 3 tag params .wrongState []))
    ∧ (o.state ≠ .held → exec (.ordRelease tag params) s = .next (State.settle (s.replied 8 4 tag params .wrongState [])))
    ∧ ∀ h : HoldReason, o.state = .held → o.hold = some h →
      let x : Order := { o with
        hold := none, state := if o.abortRequested then .draining else if o.started then .running else .queued }
      let u := (s.withTested x).servedFor x
      exec (.ordRelease tag params) s = .next (State.settle (u.replied 8 4 tag params .ok
        (be 1 h.code ++ ((u.order? o.number).map Order.bytes).getD [])))

/-- ORD.ABORT of a QUEUED, RUNNING or HELD order sets abort-requested, gives up what remains, makes it DRAINING, or
ABORTED with ORDER-DONE when nothing is in progress, and sends every unit holder a notice. ORD.RETIRE takes a DONE or
ABORTED order off the table with its counts reported. Both refuse the other states with WRONG-STATE. A notice ends a
session that holds a unit of an aborted order and has no number WITHDRAWN(ORDER-ABORTED); to one with a number it does
nothing (R107, R108, R151). That the reply is formed before the notices act is the model's choice, log entry 6, and so
are the 1 byte of the number of notices and the layout of the reported counts, log entry 19. -/
def Obligations.OrderEnded : Prop :=
  (∀ (s : State) (tag : Byte) (params : List Byte) (o : Order), s.Takes → s.orders.Ok → params.length = 2 →
    s.order? (number params 0 2) = some o →
    (if o.state = .queued ∨ o.state = .running ∨ o.state = .held then
      let x : Order := { o with
        abortRequested := true, abandoned := o.abandoned + o.remaining, remaining := 0, hold := none, state := .draining }
      exec (.ordAbort tag params) s = .next (State.settle (State.replied
        { s.withTested x with agenda := s.agenda ++ o.unitHolders.map Task.abortNotice } 8 5 tag params .ok
        (be 2 o.remaining ++ be 1 o.unitHolders.length
          ++ be 1 (if o.inProgress = 0 then OrderState.aborted.code else OrderState.draining.code))))
    else exec (.ordAbort tag params) s = .next (State.settle (s.replied 8 5 tag params .wrongState [])))
    ∧ (if o.state = .done ∨ o.state = .aborted then
      exec (.ordRetire tag params) s = .next (State.replied
        { s with orders := { s.orders with orders := s.orders.orders.filter (fun x => x.number != o.number) } }
        8 6 tag params .ok (be 2 o.quantity ++ be 2 o.remaining ++ be 2 o.inProgress ++ be 2 o.completed
          ++ be 2 o.abandoned ++ be 2 o.spoiled))
    else exec (.ordRetire tag params) s = .next (s.replied 8 6 tag params .wrongState [])))
  ∧ ∀ (s : State) (p : PortNo) (x : Session) (n : Nat) (o : Order) (rest : List Task), s.link.mode ≠ .shutdown →
    s.agenda = .abortNotice p :: rest → s.session? p = some x → x.unitHeld = true → x.order = some n →
    s.order? n = some o → o.abortRequested = true →
    let b : State := { s with agenda := rest }
    (x.device.isSome = true → s.react? = some b)
    ∧ (x.device = none → s.StatesSound → ∃ u, s.react? = some u
      ∧ SessionOver b u p x (x.endOf .withdrawn .orderAborted none (s.stateAfter p)))

/-- The counts of every order go on adding up to its quantity, and in_progress to the length of its unit holders: at
every step from a lawful state, and through each operation of the Order Table, the serving of a waiting list, the three
unit ends, an amendment, an abort and the holds of a zeroization (R99, R111, R115 to R118). That a port may stand twice
among the unit holders is log entry 28. -/
def Obligations.UnitCountsBalance : Prop :=
  (∀ s t : State, s.Ok → step s = .next t → t.orders.Balanced)
  ∧ ∀ (s : State) (n : Nat) (q : PortNo), s.orders.Ok →
    (∀ p : Fin 16, (s.serveProfile p).orders.Balanced)
    ∧ s.holdZeroized.orders.Balanced
    ∧ (∀ requested limit, (s.updOrder n (·.amended requested limit)).orders.Balanced)
    ∧ (s.updOrder n Order.aborted).orders.Balanced
    ∧ (∀ why, (s.unitReturned n q why).orders.Balanced) ∧ (s.unitCompleted n q).orders.Balanced
    ∧ (s.unitSpoiled n q).orders.Balanced

/-- Dispatch and the unit ends. The order that hands out a unit of a profile is eligible and the oldest of those that
are. Serving a waiting list takes the port at its head, which is handed a unit of that order and told its number, and
goes on until the list is empty or no order of the profile is eligible. A returned, a completed and a spoiled unit
change the counts of their order, a returned or spoiled one may hold it, the test of R100 follows, and a unit that came
back to remaining serves the waiting ports (R99 to R101, R111, R113, R115 to R117). That the end of a unit which the
port does not hold changes nothing is the model's choice, log entry 1. -/
def Obligations.UnitsServed : Prop :=
  (∀ (s : State) (p : Fin 16),
    (s.oldestEligible? p = none ↔ ∀ o ∈ s.orders.orders, o.eligible p = false)
    ∧ (∀ o, s.oldestEligible? p = some o → o ∈ s.orders.orders ∧ o.eligible p = true
      ∧ ∀ x ∈ s.orders.orders, x.eligible p = true → o.placement ≤ x.placement)
    ∧ (s.waitingList p = [] ∨ s.oldestEligible? p = none → s.serveProfile p = s)
    ∧ ∀ (o : Order) (q : PortNo) (rest : List PortNo), s.oldestEligible? p = some o → s.waitingList p = q :: rest →
      let handed (z : Order) : Order := { z with
        remaining := z.remaining - 1, inProgress := z.inProgress + 1, unitHolders := z.unitHolders ++ [q], started := true
        state := if z.state = .queued then .running else z.state }
      let told : State := { (s.setWaiting p rest).updOrder o.number handed with
        ports := s.ports.put q { s.port q with session := (s.port q).session.map (fun x =>
          { x with unitHeld := true, order := some o.number, waiting := false }) }
        agenda := s.agenda ++ [.unitHanded q] }
      s.serveProfile p = told.serveProfile p)
  ∧ (∀ (s : State) (n : Nat) (q : PortNo), (∀ o, s.order? n = some o → q ∉ o.unitHolders) →
    s.unitCompleted n q = s ∧ s.unitSpoiled n q = s ∧ ∀ why, s.unitReturned n q why = s)
  ∧ ∀ (s : State) (n : Nat) (q : PortNo) (o : Order), s.orders.Ok → s.order? n = some o → q ∈ o.unitHolders →
    o.state ≠ .done → o.state ≠ .aborted →
    let d : Order := { o with inProgress := o.inProgress - 1, unitHolders := o.unitHolders.erase q }
    let heldFor (x : Order) (why : Option HoldReason) : Order :=
      match why with
      | some h => if o.state = .running then { x with state := .held, hold := some h } else x
      | none => x
    let heldFlag (why : Option HoldReason) : BitVec 88 :=
      if why.isSome ∧ o.state = .running then (EventFlag.global .orderHeld).single else 0
    s.unitCompleted n q = s.withTested { d with completed := o.completed + 1 }
    ∧ (∀ why, s.unitReturned n q why =
      if o.abortRequested then (s.flagged (heldFlag why)).withTested (heldFor { d with abandoned := o.abandoned + 1 } why)
      else
        let x := heldFor { d with remaining := o.remaining + 1 } why
        ((s.flagged (heldFlag why)).withTested x).servedFor x)
    ∧ s.unitSpoiled n q =
      let x : Order := { d with spoiled := o.spoiled + 1 }
      if o.abortRequested then s.withTested { x with abandoned := o.abandoned + 1 }
      else if o.spoiled + 1 ≤ o.spoilLimit then
        (s.withTested { x with remaining := o.remaining + 1 }).servedFor { x with remaining := o.remaining + 1 }
      else (s.flagged (heldFlag (some .spoilLimit))).withTested
        (heldFor { x with abandoned := o.abandoned + 1 } (some .spoilLimit))

/-! ## Bench ports -/

/-- PORT.SET writes all eight settings on an OFF, DORMANT or PAUSED port, with timeout, retry limit and wait limit
clamped, and enables or disables the port; it is refused PORT-BUSY in the other states, and BAD-VALUE for a code out of
range (R121). That the reply tells by three yes/no bytes which of the clamped values were changed is the model's choice,
log entry 19. -/
def Obligations.PortSettings : Prop :=
  ∀ (s : State) (tag : Byte) (params : List Byte) (p : PortNo), s.Takes → params.length = 11 →
    number params 0 1 = p.val →
    let st := (s.port p).state
    if st ≠ .off ∧ st ≠ .dormant ∧ st ≠ .paused then
      exec (.portSet tag params) s = .next (s.replied 9 1 tag params .portBusy [])
    else if 7 < number params 2 1 ∨ 1 < number params 1 1 ∨ 1 < number params 3 1 ∨ 1 < number params 4 1
        ∨ 1 < number params 5 1 then
      exec (.portSet tag params) s = .next (s.replied 9 1 tag params .badValue [])
    else
      let timeout := max 100 (min 5000 (number params 6 2))
      let retry := min 5 (number params 8 1)
      let wait := min 600 (number params 9 2)
      let enabled := decide (number params 1 1 = 1)
      let g : Settings := ⟨enabled, number params 2 1, decide (number params 3 1 = 1), decide (number params 4 1 = 1),
        decide (number params 5 1 = 1), timeout, retry, wait⟩
      let next : PortState := if enabled then (if st = .off then .dormant else st) else .off
      exec (.portSet tag params) s = .next (State.replied
        (s.updPort p (fun q => { q with settings := g, state := next })) 9 1 tag params .ok
        (g.bytes ++ [boolByte (timeout != number params 6 2), boolByte (retry != number params 8 1),
          boolByte (wait != number params 9 2)] ++ be 1 next.code))

/-- The requests that move a port: PORT.PAUSE by port state, a waiting session ending UNSERVED; PORT.RESUME;
PORT.READMIT; PORT.RESET without a session, with the key area erased, and with one that ends SPOILED or WITHDRAWN for
RESET, COMPLETE in CLOSING, and in SETTLING as far as its settlement has come (R133, R135 to R137, R156). That the
replies report the port state, and PORT.RESET's outcome and reason behind one presence byte, is the model's choice, log
entry 19, and so is that PORT.PAUSE and PORT.RESET reply after the session has ended, log entry 6; that a settlement
changed in SETTLING keeps its time is the model's reading, log entry 15. -/
def Obligations.PortRequests : Prop :=
  ∀ (s : State) (tag : Byte) (params : List Byte) (p : PortNo), s.Takes → params.length = 1 → number params 0 1 = p.val →
    let st := (s.port p).state
    let to' (t : PortState) : State := s.updPort p (fun q => { q with state := t })
    (st = .off ∨ st = .retired ∨ st = .readmitting →
      exec (.portPause tag params) s = .next (State.settle (s.replied 9 2 tag params .wrongState [])))
    ∧ (st = .dormant ∨ st = .listening ∨ st = .cooldown ∨ st = .paused →
      exec (.portPause tag params) s = .next (State.settle ((to' .paused).replied 9 2 tag params .ok
        (be 1 PortState.paused.code))))
    ∧ (st = .inSession → (∀ x, s.session? p = some x → x.waiting = false) →
      exec (.portPause tag params) s = .next (State.settle ((to' .pausing).replied 9 2 tag params .ok
        (be 1 PortState.pausing.code))))
    ∧ (st = .pausing → exec (.portPause tag params) s = .next (State.settle (s.replied 9 2 tag params .ok
        (be 1 PortState.pausing.code))))
    ∧ (∀ x, s.Sound → st = .inSession → s.session? p = some x → x.waiting = true →
      ∃ u : State, SessionOver (to' .pausing) u p x (x.endOf .unserved .none none .paused)
        ∧ exec (.portPause tag params) s = .next (State.settle (u.replied 9 2 tag params .ok
          (be 1 PortState.paused.code))))
    ∧ (st = .paused → exec (.portResume tag params) s = .next ((to' .dormant).replied 9 3 tag params .ok
        (be 1 PortState.dormant.code)))
    ∧ (st = .pausing → exec (.portResume tag params) s = .next ((to' .inSession).replied 9 3 tag params .ok
        (be 1 PortState.inSession.code)))
    ∧ (st ≠ .paused → st ≠ .pausing →
      exec (.portResume tag params) s = .next (s.replied 9 3 tag params .wrongState []))
    ∧ exec (.portReadmit tag params) s = .next (if st = .retired then
        State.replied (s.updPort p (fun q => { q with state := .readmitting, timerFrom := s.now })) 9 4 tag params .ok
          (be 1 PortState.readmitting.code)
      else s.replied 9 4 tag params .wrongState [])
    ∧ (let rest : PortState := match st with
        | .off => .off
        | .retired => .retired
        | .readmitting => .retired
        | _ => .dormant
      (s.session? p = none → exec (.portReset tag params) s = .next (State.settle (State.replied
        (s.updPort p (fun q => { q with state := rest, keyArea := KeyArea.blank })) 9 5 tag params .ok
        (present 2 none ++ be 1 rest.code))))
      ∧ (∀ x, s.Sound → s.session? p = some x → x.phase ≠ .settling →
        let o : Ending := if x.phase = .closing then .complete else x.cutOff
        let r : Reason := if x.phase = .closing then .none else .reset
        ∃ u : State, SessionOver s u p x (x.endOf o r none rest)
          ∧ exec (.portReset tag params) s = .next (State.settle (u.replied 9 5 tag params .ok
            (present 2 (some (be 1 o.code ++ be 1 r.code)) ++ be 1 rest.code))))
      ∧ ∀ x, s.Sound → s.session? p = some x → x.phase = .settling → ∃ u : State, s.CutInSettling u p x .reset rest
        ∧ exec (.portReset tag params) s = .next (State.settle (u.replied 9 5 tag params .ok
          (present 2 ((u.port p).lastEnd.map (fun e => be 1 e.1.code ++ be 1 e.2.code)) ++ be 1 rest.code))))

/-- A port's lamp pattern follows its state and its session, and every lamp is dark in SHUTDOWN (R140). Events of a
port's line that are no frame: activity wakes a DORMANT port and restarts the quiet counts of COOLDOWN and READMITTING;
50 ms of quiet bring a decoding port into step; the listening period, the quiet count of COOLDOWN and that of
READMITTING end in DORMANT, the last with score 0 and PORT-READMITTED. An end of a quiet count taken after activity that
came with it finds the count restarted, and the port stays (R123, R129, R131, R135). That it is known by a count that
began in the same second is the model's choice, log entry 7. That such an end in a port state in which it is not
running, or a quiet on a port that does not decode, changes nothing is the model's choice, log entry 1. -/
def Obligations.LineEvents : Prop :=
  (∀ (s : State) (p : PortNo),
    let q := s.port p
    let dark := List.replicate 8 false
    (s.link.mode = .shutdown → (s.lamp p).steps = dark)
    ∧ (s.link.mode ≠ .shutdown → (s.lamp p).steps =
      if q.state = .off ∨ q.state = .dormant ∨ q.state = .paused then dark
      else if q.state = .listening then [true, true, true, true, false, false, false, false]
      else if q.state = .inSession ∨ q.state = .pausing then
        if (q.session.bind (·.device)).isSome = true then [true, false, true, false, true, false, true, false]
        else [true, true, true, true, false, false, false, false]
      else if q.state = .cooldown then
        if q.lastEnd.map (·.1) = some .complete then List.replicate 8 true
        else [true, false, true, false, false, false, false, false]
      else [true, false, false, false, false, false, false, false]))
  ∧ ∀ (s : State) (p : PortNo), s.link.mode ≠ .shutdown →
    let st := (s.port p).state
    exec (.lineActivity p) s = .next (match st with
      | .dormant => s.updPort p (fun q => { q with state := .listening, inStep := false, timerFrom := s.now })
      | .cooldown => s.updPort p (fun q => { q with timerFrom := s.now })
      | .readmitting => s.updPort p (fun q => { q with timerFrom := s.now })
      | _ => s)
    ∧ exec (.benchInStep p) s = .next (if st = .listening ∨ st = .inSession ∨ st = .pausing then
        s.updPort p (fun q => { q with inStep := true }) else s)
    ∧ exec (.listeningPeriodEnd p) s = .next (if st = .listening then
        s.updPort p (fun q => { q with state := .dormant }) else s)
    ∧ exec (.cooldownEnd p) s = .next (if st = .cooldown ∧ (s.port p).timerFrom ≠ s.now then
        s.updPort p (fun q => { q with state := .dormant }) else s)
    ∧ exec (.readmissionEnd p) s = .next (if st = .readmitting ∧ (s.port p).timerFrom ≠ s.now then
        State.flagged (s.updPort p (fun q => { q with state := .dormant, score := 0 })) (EventFlag.port .readmitted p).single
      else s)

/-- A line error adds 8 to the port's score, up to 256, and raises its count, with PORT-WARNING when the score rises to
96. At 256 the port is RETIRED with PORT-RETIRED, a session ending for LINE. Below it a wait for an answer ends: the
frame is sent again with the same bytes, or at the retry limit the session ends for LINE. In CLOSING it ends COMPLETE
instead, and in SETTLING as far as its settlement has come (R123, R125 to R128, R134, R156, R158). That the end in
CLOSING is COMPLETE, where R126 and R158 speak of SPOILED(LINE), and that a settlement changed in SETTLING keeps its
time, are log entry 15, the model's reading. -/
def Obligations.LineErrors : Prop :=
  ∀ (c : Instr) (s : State) (p : PortNo) (k : LineError), s.link.mode ≠ .shutdown → s.lineErrorOf c = some (p, k) →
    let after := s.afterError p k
    let Ends (b u : State) (x : Session) (next : PortState) : Prop :=
      (x.phase = .closing → SessionOver b u p x (x.endOf .complete .none none next))
      ∧ (x.phase = .settling → b.CutInSettling u p x .line next)
      ∧ (x.phase ≠ .settling → x.phase ≠ .closing → SessionOver b u p x (x.endOf x.cutOff .line none next))
    (256 ≤ (s.port p).score + 8 →
      let retired := State.flagged after (EventFlag.port .retired p).single
      (s.session? p = none → exec c s = .next (State.settle (retired.updPort p (fun q => { q with state := .retired }))))
      ∧ ∀ x, s.Sound → s.session? p = some x → ∃ u : State, Ends retired u x .retired ∧ exec c s = .next (State.settle u))
    ∧ ((s.port p).score + 8 < 256 →
      ((∀ x, s.session? p = some x → x.awaited = none) → exec c s = .next (State.settle after))
      ∧ ∀ (x : Session) (a : Awaited), s.session? p = some x → x.awaited = some a →
        (x.retry < (s.port p).settings.retryLimit →
          exec c s = .next (State.settle (after.updPort p (fun q => { q with
            sent := q.sent ++ [a.bytes]
            session := some { x with
              retry := x.retry + 1, awaited := some { a with waitMs := (after.port p).timeoutInForce } } }))))
        ∧ (s.Sound → (s.port p).settings.retryLimit ≤ x.retry →
          ∃ u : State, Ends after u x (s.stateAfter p) ∧ exec c s = .next (State.settle u)))

/-! ## Injection sessions -/

/-- A good HELLO in LISTENING starts a session. With the tables sound, the greeting follows R96: an empty serial is
refused IDENTITY, no accepting entry UNKNOWN, a profile that is not DEFINED NO-PROFILE, a terminal that cannot hold an
item CAPABILITY, one not fresh NOT-FRESH where that is asked; else the profile is held and WELCOME sent. A HELLO in
another state is discarded (R92, R96, R125, R129, R142, R144). -/
def Obligations.SessionGreeted : Prop :=
  ∀ (s : State) (p : PortNo) (chars : List Byte) (f : BenchFrame), s.Receives p chars (.good f) → f.type = 0x21 →
    ((s.port p).state ≠ .listening → exec (.hello p chars) s = .next s.settle)
    ∧ ((s.port p).state = .listening → s.Sound →
      let t := helloTerminal f.payload
      let x := Session.created t
      let begun : State := s.updPort p (fun q => { q with
        score := q.score - 1, state := .inSession, session := some x, keyArea := KeyArea.blank })
      let refused (b : State) (x : Session) (r : Reason) : Prop :=
        ∃ u : State, SessionOver b u p x (x.endOf .refused r none .cooldown) ∧ exec (.hello p chars) s = .next u.settle
      let takes (i : Fin 32) : Prop := (s.entry i).enabled = true
        ∧ t.identity &&& (s.entry i).mask = (s.entry i).matchValue &&& (s.entry i).mask
        ∧ (s.entry i).serialStart = t.serial.take (s.entry i).serialStart.length
      (t.serial = [] → refused begun x .identity)
      ∧ (t.serial ≠ [] → (∀ i, ¬ takes i) → refused begun x .unknown)
      ∧ ∀ (i : Fin 32) (n : Fin 16), t.serial ≠ [] → takes i → (∀ k, k < i → ¬ takes k) → (s.entry i).target = n.val →
        ((s.profile n).state ≠ .defined → refused begun x .noProfile)
        ∧ ∀ d, (s.profile n).state = .defined → (s.profile n).contents = some d →
          let y : Session := { x with
            entry := some i, profile := some ⟨n, d⟩, profileHeld := true, items := d.items.map (fun _ => ItemEntry.opened) }
          let met : State := State.updProfile (begun.updPort p (fun q => { q with session := some y })) n
            (fun g => { g with holders := g.holders + 1 })
          if ∃ j ∈ d.items, t.can j.kind = false ∨ t.highestIndex < j.index then refused met y .capability
          else if d.freshOnly = true ∧ t.fresh = false then refused met y .notFresh
          else exec (.hello p chars) s = .next (State.settle (met.frameSent p y .welcome (be 1 n.val ++ be 1 d.items.length))))

/-- The answers of a terminal. READY after WELCOME asks for a unit: handed one, put into the waiting list, or UNSERVED;
READY in DERIVING with every item WRAPPED enters LOADING with the first LOAD; in CLOSING it ends the session COMPLETE;
else, in the phases that send WAIT, nothing changes but that no answer is awaited. An ACK with the item's check value
makes it LOADED and the next LOAD or COMMIT goes out; with another it ends SPOILED(CHECK), and a NAK SPOILED(TERMINAL).
DONE hands over the COMPLETE settlement. A good frame with another sequence number is discarded (R111, R112, R125, R127,
R143 to R145, R154 to R157). That the end of a session in CLOSING waits as a whole for the READY it awaits is log entry
15. -/
def Obligations.AnswersTaken : Prop :=
  ∀ (s : State) (p : PortNo) (chars : List Byte) (x : Session) (f : BenchFrame),
    (∀ a, s.Receives p chars (.good f) → s.session? p = some x → x.awaited = some a → f.seq.toNat ≠ a.seq →
      exec (.ready p chars) s = .next s.settle ∧ exec (.ack p chars) s = .next s.settle
      ∧ exec (.nak p chars) s = .next s.settle ∧ exec (.done p chars) s = .next s.settle)
    ∧ (s.Answered p chars x f →
      let b := s.scoredAnswer p x
      let y := x.unawaited s.now
      let closes (c : Instr) (o : Ending) (r : Reason) : Prop :=
        s.Sound → ∃ u : State, SessionOver b u p y (y.endOf o r none (s.stateAfter p)) ∧ exec c s = .next u.settle
      (f.type = 0x22 →
        (∀ g, x.phase = .greeting → x.profile = some g →
          match s.oldestEligible? g.number with
          | some o => exec (.ready p chars) s = .next (State.settle (State.tell
              ((b.updOrder o.number (fun z => z.handUnit p)).updPort p (fun q => { q with session := some { y with
                phase := .assigning, unitHeld := true, order := some o.number, waiting := false } })) (.unitHanded p)))
          | none =>
            let asking : Session := { y with phase := .assigning }
            if 0 < (s.port p).settings.waitLimit ∧ (s.port p).state = .inSession then
              exec (.ready p chars) s = .next (State.settle
                ((b.setWaiting g.number (s.waitingList g.number ++ [p])).updPort p (fun q => { q with
                  session := some { asking with waiting := true, waitFrom := s.now } })))
            else s.Sound → ∃ u : State, SessionOver (b.updPort p (fun q => { q with session := some asking })) u p asking
              (asking.endOf .unserved .none none (s.stateAfter p)) ∧ exec (.ready p chars) s = .next u.settle)
        ∧ (x.phase = .deriving → x.nextJob p (s.port p).keyArea = none →
          exec (.ready p chars) s = .next (State.settle (b.loadSent p { y with phase := .loading })))
        ∧ (x.phase = .closing → closes (.ready p chars) .complete .none)
        ∧ ((x.phase = .assigning ∨ x.phase = .allocating ∨ x.phase = .settling
            ∨ x.phase = .deriving ∧ (x.nextJob p (s.port p).keyArea).isSome = true) →
          exec (.ready p chars) s = .next b.settle))
      ∧ (f.type = 0x23 → ∀ n e, x.items.findIdx? (fun e => !(e.state == .loaded)) = some n → x.items[n]? = some e →
        (e.check = some (f.payload.take 3) → exec (.ack p chars) s = .next (State.settle (b.loadSent p
          { y with items := x.items.modify n (fun e => { e with state := .loaded, block := none }) })))
        ∧ (e.check ≠ some (f.payload.take 3) → closes (.ack p chars) .spoiled .check))
      ∧ (f.type = 0x24 → closes (.nak p chars) .spoiled .terminal)
      ∧ (f.type = 0x25 → exec (.done p chars) s = .next (State.settle
        { b.updPort p (fun q => { q with session := some { y with phase := .settling } }) with
          journal := { s.journal with runQueue := s.journal.runQueue ++ [.settle ⟨x.record, some p,
            ⟨.complete, .none, s.stamp, x.items.filterMap (·.check)⟩, true, none⟩] } })))

/-- A session's waits: at the idle time a session that waits for another block, with no answer awaited, sends WAIT with
its phase; at the wait limit a session in a waiting list ends UNSERVED; at the end of the journal wait it ends
WITHDRAWN(NO-JOURNAL) (R114, R143, R145, R148). That an idle time's end while an answer is awaited, a wait limit's end
of a session that does not wait and a journal wait's end of a port that is no waiter change nothing is the model's
choice, log entry 1. -/
def Obligations.SessionWaits : Prop :=
  ∀ (s : State) (p : PortNo) (x : Session), s.link.mode ≠ .shutdown → s.session? p = some x →
    (x.awaited = none → (x.phase = .assigning ∨ x.phase = .allocating ∨ x.phase = .deriving ∨ x.phase = .settling) →
      exec (.idleTimeExpiry p) s = .next (s.frameSent p x .wait (be 1 x.phase.code)))
    ∧ (x.awaited.isSome = true → exec (.idleTimeExpiry p) s = .next s)
    ∧ (s.Sound → x.waiting = true → ∃ u : State, SessionOver s u p x (x.endOf .unserved .none none (s.stateAfter p))
      ∧ exec (.waitLimitExpiry p) s = .next u.settle)
    ∧ (x.waiting = false → exec (.waitLimitExpiry p) s = .next s.settle)
    ∧ (s.Sound → p ∈ s.journal.waiters → ∃ u : State, SessionOver s u p x (x.endOf .withdrawn .noJournal none (s.stateAfter p))
      ∧ exec (.journalWaitExpiry p) s = .next u.settle)
    ∧ (p ∉ s.journal.waiters → exec (.journalWaitExpiry p) s = .next s.settle)

/-! ## Journal -/

/-- The JRN requests. While a rebuild runs each waits, and a read waits while the flash is not IDLE. Served with sound
counters: JRN.READ returns at most 12 held records from its start on; JRN.STATUS reports, with the level unchanged for
0; JRN.RELEASE is refused BAD-VALUE beyond the newest sequence, and otherwise raises released-through, stopping before
the oldest PENDING record, the FULL segments being judged for reclaim where that changes it (R172, R176 to R179, R182).
A first sequence of 0 when no record is returned, the 1-byte maximum and the layout of JRN.STATUS are the model's
choice, log entry 19; which requests wait is log entry 25. -/
def Obligations.JournalRequests : Prop :=
  ∀ (s : State) (tag : Byte) (params : List Byte), s.Takes →
    let level := number params 0 2
    let start := number params 0 4
    let most := number params 4 1
    let wait (v : Byte) (r : JournalRequest) : State :=
      { s.taken 10 v tag params with journal := { s.journal with request := some r } }
    (s.journal.rebuilding = true ∨ s.journal.flash ≠ .idle →
      (params.length = 2 → exec (.jrnStatus tag params) s = .next (State.settle (wait 1 (.status level))))
      ∧ (params.length = 5 → exec (.jrnRead tag params) s = .next (State.settle (wait 2 (.read start most)))))
    ∧ (s.journal.rebuilding = true → params.length = 4 →
      exec (.jrnRelease tag params) s = .next (State.settle (wait 3 (.release start))))
    ∧ (s.journal.rebuilding = false → s.journal.nextSeq.mem = GroupMem.clean → s.journal.released.mem = GroupMem.clean →
      (s.journal.flash = .idle →
        (params.length = 5 →
          let found := s.journal.heldRecords.filter (fun r => decide (start ≤ r.seq))
          let returned := found.take (min 12 most)
          exec (.jrnRead tag params) s = .next (State.settle (s.replied 10 2 tag params .ok
            (be 4 ((returned.head?.map (·.seq)).getD 0) ++ be 1 returned.length ++ be 4 (found.length - returned.length)
              ++ be 4 s.journal.oldestHeld ++ returned.flatMap HeldRecord.bytes))))
        ∧ (params.length = 2 → level = 0 → exec (.jrnStatus tag params) s = .next (State.settle
          (s.replied 10 1 tag params .ok (s.journal.statusBytes false))))
        ∧ (params.length = 2 → level ≠ 0 →
          let j : Journal := { s.journal with warnLevel := max 16 (min 4096 level) }
          exec (.jrnStatus tag params) s = .next (State.settle (State.replied (State.flagged
            { s with journal := { j with highNoted := decide (j.free ≤ j.warnLevel) } } (j.highFlag 0)) 10 1 tag params .ok
            (Journal.statusBytes { j with highNoted := decide (j.free ≤ j.warnLevel) }
              (decide (max 16 (min 4096 level) ≠ level)))))))
      ∧ (params.length = 4 →
        (s.journal.newest < start → exec (.jrnRelease tag params) s = .next (State.settle
          (s.replied 10 3 tag params .badValue [])))
        ∧ (start ≤ s.journal.newest →
          let through := match s.journal.oldestPending with | some q => min start (q - 1) | none => start
          let released := max s.journal.released.value through
          let written : Journal := { s.journal with released := ⟨released, GroupMem.clean⟩ }
          let j : Journal := if released = s.journal.released.value then written else written.judgeReclaim
          exec (.jrnRelease tag params) s = .next (State.settle (State.replied { s with journal := j } 10 3 tag params .ok
            (be 4 released ++ present 4 (s.journal.oldestPending.map (be 4))))))))

/-- The places given to waiting sessions. When the waiters list is served, the ports from its head whose sessions can be
accepted, those without an entry in the run part, are accepted and told, as many as leave the free count at 4 or more;
the others keep their places. The promised count rises with each and the warning is judged by the free count left. A
session told of FAULT while it waits ends WITHDRAWN(NO-JOURNAL) (R148, R168 to R170). -/
def Obligations.WaitersServed : Prop :=
  (∀ s : State,
    let j := s.journal
    let served : List PortNo := if j.state = .working then
      (j.waiters.filter (fun q => j.runQueue.all (fun e => !e.ofPort q))).take (j.free - 4).toNat else []
    let t := s.serveWaiters
    (served = [] → t = s)
    ∧ t = { s with agenda := t.agenda, ports := t.ports, link := { s.link with pending := t.link.pending }, journal :=
        { j with promised := j.promised + served.length, waiters := served.foldl List.erase j.waiters, highNoted := t.journal.highNoted } }
    ∧ t.agenda = s.agenda ++ served.map Task.placeAccepted
    ∧ (∀ q, t.port q = { s.port q with session := (s.port q).session.map (fun x =>
      if q ∈ served then { x with placeAccepted := true } else x) })
    ∧ (served ≠ [] → t.journal.highNoted = decide (t.journal.free ≤ j.warnLevel)
      ∧ (j.highNoted = false → t.journal.free ≤ j.warnLevel → t.flagPending (.global .journalHigh) = true)))
  ∧ ∀ (s : State) (p : PortNo) (x : Session) (rest : List Task), s.link.mode ≠ .shutdown → s.StatesSound →
    s.agenda = .journalFault p :: rest → s.session? p = some x → x.phase = .allocating → x.placeAccepted = false →
    x.device = none → ∃ u, s.react? = some u
      ∧ SessionOver { s with agenda := rest } u p x (x.endOf .withdrawn .noJournal none (s.stateAfter p))

/-- The settlements. The one at the head of the queue is programmed into its record's part, and one that names no record
is dropped there. At a program's end the record is settled or its part reads DAMAGED with JOURNAL-FAULT, the entry is
gone and, when it was a port's, the waiters are served, after its origin has been told: a session that waits for it
enters CLOSING and ends COMPLETE, its CLOSE waiting for a READY still awaited, and a unit due is completed. One attached
to an ISSUE append ends with that entry. In SHUTDOWN nobody is told (R143, R156, R169, R171, R175, R180). That a failed
program's part reads DAMAGED whatever its bytes is the model's choice, log entry 17, and that the whole end waits for
the READY is log entry 15. -/
def Obligations.SettlementsProgrammed : Prop :=
  (∀ (s : State) (e : SettlementEntry), s.journal.flash = .idle → s.journal.rebuilding = false →
    s.journal.state ≠ .stopped → s.link.restart ≠ .due → s.journal.head? = some (.settle e) →
    (e.record.isSome = true → s.flashNext? = some { s with journal := { s.journal with
      flash := .programming (.settle (settlementBytes e.content)) } })
    ∧ (e.record = none → s.flashNext? = some (State.serveWaiters { s with journal := s.journal.popHead })))
  ∧ ∀ (s : State) (r : ReadBack) (bytes : List Byte) (ref : RecordRef) (t : Settlement),
    let b := s.settlementDone ref bytes r
    (∀ part, s.journal.flash = .programming (.attached ref bytes) →
      s.journal.head? = some (.issue part (some t)) → exec (.settlementProgramEnd r) s = .next (State.settle
        (if s.link.mode = .shutdown then b else b.serveWaiters)))
    ∧ ∀ (p : Option PortNo) (awaited : Bool) (due : Option Nat), s.journal.flash = .programming (.settle bytes) →
      s.journal.head? = some (.settle ⟨some ref, p, t, awaited, due⟩) →
      (s.link.mode = .shutdown → exec (.settlementProgramEnd r) s = .next b.settle)
      ∧ (s.link.mode ≠ .shutdown →
        (awaited = false → due = none → exec (.settlementProgramEnd r) s = .next (State.settle
          (if p.isSome then b.serveWaiters else b)))
        ∧ (∀ q n, p = some q → awaited = false → due = some n →
          exec (.settlementProgramEnd r) s = .next (b.unitCompleted n q).serveWaiters.settle)
        ∧ ∀ q x, p = some q → awaited = true → due = none → s.session? q = some x → x.phase = .settling →
          let y : Session := { x with phase := .closing }
          (x.awaited.isSome = true → exec (.settlementProgramEnd r) s = .next
            (State.settle (b.updPort q (fun z => { z with session := some y })).serveWaiters))
          ∧ (x.awaited = none → s.Sound → ∃ u : State,
            SessionOver b u q y (y.endOf .complete .none none (s.stateAfter q))
            ∧ exec (.settlementProgramEnd r) s = .next u.serveWaiters.settle))

/-- The flash's appends, erases and rebuilds, with no restart due. An append verified in the next place of the ACTIVE
segment, or of one opened for it, ends its promise and raises next sequence, the segment FULL with its full mark after
the last place; an ISSUE record is reported to its session, and a settlement attached follows. One whose first attempt
fails leaves a void place and takes the next; one whose two attempts fail puts the Journal into FAULT, every waiter
told. A good erase frees its segment and serves the waiters; another makes it BAD. A rebuild's end sets both counters
(R164, R165, R169, R173, R174, R177, R182). That one command ends an append with its second attempt is the model's
choice, log entry 17, and so is that a settlement attached follows at once even while a rebuild runs, log entry 25, that
a BAD header without a sound opened mark has no first sequence mark for a rebuild, log entry 18, and that an erase that
fails serves no waiters, between R177 and R169, log entry 28. -/
def Obligations.FlashEnds : Prop :=
  ∀ s : State, s.link.mode ≠ .shutdown → s.journal.state ≠ .stopped → s.link.restart ≠ .due →
    (∀ (seq : Nat) (bytes : List Byte) (e : QueueEntry) (i : Fin 64) (fullOk : Bool) (second : ReadBack),
      s.journal.flash = .programming (.append seq bytes) → s.journal.head? = some e → (∀ t, e ≠ .settle t) →
      let ended (first second : ReadBack) : Host.Outcome State Fault Refusal :=
        exec (.flashProgramEnd ⟨[], first, second, fullOk⟩) s
      (s.journal.active? = none → s.journal.nextErased? = some i →
        ended .ok second = .next (State.settle ((s.segmentOpened i seq).appended e i seq bytes fullOk)))
      ∧ (s.journal.active? = some i →
        let k := (s.journal.segments.look i).places.length
        ended .ok second = .next (State.settle (s.appended e i seq bytes fullOk))
        ∧ (s.journal.headFailed = false → k + 1 < 128 → ∀ left,
          ended (.fails left) .ok = .next (State.settle ((s.placeVoided i left).appended e i seq bytes fullOk))
          ∧ ∀ left', ∃ u : State, ended (.fails left) (.fails left') = .next u.settle
            ∧ u.journal.state = .fault ∧ u.journal.flash = .idle ∧ u.flagPending (.global .journalFault) = true
            ∧ u.journal.nextSeq = s.journal.nextSeq ∧ u.journal.promised = s.journal.promised - 1
            ∧ u.journal.startQueue = s.journal.popHead.startQueue ∧ u.journal.runQueue = s.journal.popHead.runQueue
            ∧ u.journal.programFailures = min 65535 (min 65535 (s.journal.programFailures + 1) + 1)
            ∧ u.journal.waiters = [] ∧ u.agenda = s.agenda ++ s.journal.waiters.map Task.journalFault
            ∧ ∀ part x, e = .issue part none → s.session? part.port = some x →
              u.session? part.port = some { x with unprogrammed := true })))
    ∧ (∀ i : Fin 64, s.journal.flash = .erasing i →
      (let j : Journal := { s.journal with segments := s.journal.segments.put i Segment.blank, flash := .idle }
      exec (.eraseEnd .erased) s = .next (State.settle (State.serveWaiters (State.flagged
        { s with journal := { j with highNoted := decide (j.free ≤ j.warnLevel) } } (j.highFlag 0)))))
      ∧ ∀ header, exec (.eraseEnd (.notErased header)) s = .next (State.settle { s with journal := { s.journal with
        segments := s.journal.segments.put i { s.journal.segments.look i with header := withBadMark header, state := .bad }
        flash := .idle, eraseFailures := min 65535 (s.journal.eraseFailures + 1) } }))
    ∧ (s.journal.rebuilding = true → s.journal.flash = .idle → ∃ u : State,
      exec .counterRebuildEnd s = .next u.settle ∧ u.journal.rebuilding = false
      ∧ u.journal.nextSeq = ⟨(match s.journal.newestFound with | some q => q + 1 | none => s.journal.largestMark),
        GroupMem.clean⟩
      ∧ u.journal.released.mem = GroupMem.clean
      ∧ (∀ r, s.journal.heldRecords.head? = some r → u.journal.released.value = r.seq - 1)
      ∧ (s.journal.heldRecords = [] → u.journal.released.value = u.journal.nextSeq.value - 1))
end

