-- ==== Sys2Proof/Laws/Bank.lean ====
section
/-! SUPPORT. The laws of a bank: a read after a write, after a map, and of a bank of one thing. -/

namespace Sys2Proof

variable {α β : Type} {n : Nat}

@[simp] theorem Bank.look_put_self (v : Bank α n) (i : Fin n) (x : α) : (v.put i x).look i = x := by
  simp [Bank.look, Bank.put]

theorem Bank.look_put_ne (v : Bank α n) {i k : Fin n} (x : α) (h : k ≠ i) : (v.put i x).look k = v.look k := by
  have : i.val ≠ k.val := fun e => h (Fin.ext e.symm)
  simp [Bank.look, Bank.put, this]

theorem Bank.look_put (v : Bank α n) (i k : Fin n) (x : α) :
    (v.put i x).look k = if k = i then x else v.look k := by
  by_cases h : k = i
  · subst h; simp
  · simp [h, Bank.look_put_ne v x h]

@[simp] theorem Bank.look_mapAll (f : α → β) (v : Bank α n) (i : Fin n) : (Bank.mapAll f v).look i = f (v.look i) := by
  simp [Bank.look, Bank.mapAll]

@[simp] theorem Bank.look_fill (x : α) (i : Fin n) : (Bank.fill n x).look i = x := by
  simp [Bank.look, Bank.fill]

@[simp] theorem Bank.mapAll_fill (f : α → β) (x : α) : Bank.mapAll f (Bank.fill n x) = Bank.fill n (f x) := by
  simp [Bank.mapAll, Bank.fill]

/-- A property of everything in a bank holds after a write of a thing that has it. -/
theorem Bank.forall_put {P : α → Prop} {v : Bank α n} (i : Fin n) {x : α} (h : ∀ k, P (v.look k)) (hx : P x) (k : Fin n) :
    P ((v.put i x).look k) := by
  rw [Bank.look_put]; split
  · exact hx
  · exact h k

end Sys2Proof
end

