-- ==== Sys2Proof/Laws/State.lean ====
section
/-! SUPPORT. What each update of a part of the state leaves as it was, one lemma a field; and what it writes. -/

namespace Sys2Proof.Machine

variable (s : State)

@[simp] theorem State.raise_pending (f : EventFlag) : (s.raise f).pending = s.pending := rfl
@[simp] theorem State.raise_agenda (f : EventFlag) : (s.raise f).agenda = s.agenda := rfl
@[simp] theorem State.raise_pins (f : EventFlag) : (s.raise f).pins = s.pins := rfl
@[simp] theorem State.raise_keys (f : EventFlag) : (s.raise f).keys = s.keys := rfl
@[simp] theorem State.raise_custody (f : EventFlag) : (s.raise f).custody = s.custody := rfl
@[simp] theorem State.raise_engine (f : EventFlag) : (s.raise f).engine = s.engine := rfl
@[simp] theorem State.raise_profiles (f : EventFlag) : (s.raise f).profiles = s.profiles := rfl
@[simp] theorem State.raise_entries (f : EventFlag) : (s.raise f).entries = s.entries := rfl
@[simp] theorem State.raise_orders (f : EventFlag) : (s.raise f).orders = s.orders := rfl
@[simp] theorem State.raise_ports (f : EventFlag) : (s.raise f).ports = s.ports := rfl
@[simp] theorem State.raise_journal (f : EventFlag) : (s.raise f).journal = s.journal := rfl

@[simp] theorem State.raiseGlobal_pending (g : GlobalFlag) : (s.raiseGlobal g).pending = s.pending := rfl
@[simp] theorem State.raiseGlobal_agenda (g : GlobalFlag) : (s.raiseGlobal g).agenda = s.agenda := rfl
@[simp] theorem State.raiseGlobal_pins (g : GlobalFlag) : (s.raiseGlobal g).pins = s.pins := rfl
@[simp] theorem State.raiseGlobal_keys (g : GlobalFlag) : (s.raiseGlobal g).keys = s.keys := rfl
@[simp] theorem State.raiseGlobal_custody (g : GlobalFlag) : (s.raiseGlobal g).custody = s.custody := rfl
@[simp] theorem State.raiseGlobal_engine (g : GlobalFlag) : (s.raiseGlobal g).engine = s.engine := rfl
@[simp] theorem State.raiseGlobal_profiles (g : GlobalFlag) : (s.raiseGlobal g).profiles = s.profiles := rfl
@[simp] theorem State.raiseGlobal_entries (g : GlobalFlag) : (s.raiseGlobal g).entries = s.entries := rfl
@[simp] theorem State.raiseGlobal_orders (g : GlobalFlag) : (s.raiseGlobal g).orders = s.orders := rfl
@[simp] theorem State.raiseGlobal_ports (g : GlobalFlag) : (s.raiseGlobal g).ports = s.ports := rfl
@[simp] theorem State.raiseGlobal_journal (g : GlobalFlag) : (s.raiseGlobal g).journal = s.journal := rfl

@[simp] theorem State.raisePort_pending (k : PortFlag) (p : PortNo) : (s.raisePort k p).pending = s.pending := rfl
@[simp] theorem State.raisePort_agenda (k : PortFlag) (p : PortNo) : (s.raisePort k p).agenda = s.agenda := rfl
@[simp] theorem State.raisePort_pins (k : PortFlag) (p : PortNo) : (s.raisePort k p).pins = s.pins := rfl
@[simp] theorem State.raisePort_keys (k : PortFlag) (p : PortNo) : (s.raisePort k p).keys = s.keys := rfl
@[simp] theorem State.raisePort_custody (k : PortFlag) (p : PortNo) : (s.raisePort k p).custody = s.custody := rfl
@[simp] theorem State.raisePort_engine (k : PortFlag) (p : PortNo) : (s.raisePort k p).engine = s.engine := rfl
@[simp] theorem State.raisePort_profiles (k : PortFlag) (p : PortNo) : (s.raisePort k p).profiles = s.profiles := rfl
@[simp] theorem State.raisePort_entries (k : PortFlag) (p : PortNo) : (s.raisePort k p).entries = s.entries := rfl
@[simp] theorem State.raisePort_orders (k : PortFlag) (p : PortNo) : (s.raisePort k p).orders = s.orders := rfl
@[simp] theorem State.raisePort_ports (k : PortFlag) (p : PortNo) : (s.raisePort k p).ports = s.ports := rfl
@[simp] theorem State.raisePort_journal (k : PortFlag) (p : PortNo) : (s.raisePort k p).journal = s.journal := rfl

@[simp] theorem State.updEngine_pending (f : Engine → Engine) : (s.updEngine f).pending = s.pending := rfl
@[simp] theorem State.updEngine_agenda (f : Engine → Engine) : (s.updEngine f).agenda = s.agenda := rfl
@[simp] theorem State.updEngine_pins (f : Engine → Engine) : (s.updEngine f).pins = s.pins := rfl
@[simp] theorem State.updEngine_link (f : Engine → Engine) : (s.updEngine f).link = s.link := rfl
@[simp] theorem State.updEngine_keys (f : Engine → Engine) : (s.updEngine f).keys = s.keys := rfl
@[simp] theorem State.updEngine_custody (f : Engine → Engine) : (s.updEngine f).custody = s.custody := rfl
@[simp] theorem State.updEngine_profiles (f : Engine → Engine) : (s.updEngine f).profiles = s.profiles := rfl
@[simp] theorem State.updEngine_entries (f : Engine → Engine) : (s.updEngine f).entries = s.entries := rfl
@[simp] theorem State.updEngine_orders (f : Engine → Engine) : (s.updEngine f).orders = s.orders := rfl
@[simp] theorem State.updEngine_ports (f : Engine → Engine) : (s.updEngine f).ports = s.ports := rfl
@[simp] theorem State.updEngine_journal (f : Engine → Engine) : (s.updEngine f).journal = s.journal := rfl

@[simp] theorem State.updCustody_pending (f : CustodyUnit → CustodyUnit) : (s.updCustody f).pending = s.pending := rfl
@[simp] theorem State.updCustody_agenda (f : CustodyUnit → CustodyUnit) : (s.updCustody f).agenda = s.agenda := rfl
@[simp] theorem State.updCustody_pins (f : CustodyUnit → CustodyUnit) : (s.updCustody f).pins = s.pins := rfl
@[simp] theorem State.updCustody_link (f : CustodyUnit → CustodyUnit) : (s.updCustody f).link = s.link := rfl
@[simp] theorem State.updCustody_keys (f : CustodyUnit → CustodyUnit) : (s.updCustody f).keys = s.keys := rfl
@[simp] theorem State.updCustody_engine (f : CustodyUnit → CustodyUnit) : (s.updCustody f).engine = s.engine := rfl
@[simp] theorem State.updCustody_profiles (f : CustodyUnit → CustodyUnit) : (s.updCustody f).profiles = s.profiles := rfl
@[simp] theorem State.updCustody_entries (f : CustodyUnit → CustodyUnit) : (s.updCustody f).entries = s.entries := rfl
@[simp] theorem State.updCustody_orders (f : CustodyUnit → CustodyUnit) : (s.updCustody f).orders = s.orders := rfl
@[simp] theorem State.updCustody_ports (f : CustodyUnit → CustodyUnit) : (s.updCustody f).ports = s.ports := rfl
@[simp] theorem State.updCustody_journal (f : CustodyUnit → CustodyUnit) : (s.updCustody f).journal = s.journal := rfl

@[simp] theorem State.updJournal_pending (f : Journal → Journal) : (s.updJournal f).pending = s.pending := rfl
@[simp] theorem State.updJournal_agenda (f : Journal → Journal) : (s.updJournal f).agenda = s.agenda := rfl
@[simp] theorem State.updJournal_pins (f : Journal → Journal) : (s.updJournal f).pins = s.pins := rfl
@[simp] theorem State.updJournal_link (f : Journal → Journal) : (s.updJournal f).link = s.link := rfl
@[simp] theorem State.updJournal_keys (f : Journal → Journal) : (s.updJournal f).keys = s.keys := rfl
@[simp] theorem State.updJournal_custody (f : Journal → Journal) : (s.updJournal f).custody = s.custody := rfl
@[simp] theorem State.updJournal_engine (f : Journal → Journal) : (s.updJournal f).engine = s.engine := rfl
@[simp] theorem State.updJournal_profiles (f : Journal → Journal) : (s.updJournal f).profiles = s.profiles := rfl
@[simp] theorem State.updJournal_entries (f : Journal → Journal) : (s.updJournal f).entries = s.entries := rfl
@[simp] theorem State.updJournal_orders (f : Journal → Journal) : (s.updJournal f).orders = s.orders := rfl
@[simp] theorem State.updJournal_ports (f : Journal → Journal) : (s.updJournal f).ports = s.ports := rfl

@[simp] theorem State.updLine_pending (l : Line) (f : CustodianLine → CustodianLine) : (s.updLine l f).pending = s.pending := rfl
@[simp] theorem State.updLine_agenda (l : Line) (f : CustodianLine → CustodianLine) : (s.updLine l f).agenda = s.agenda := rfl
@[simp] theorem State.updLine_pins (l : Line) (f : CustodianLine → CustodianLine) : (s.updLine l f).pins = s.pins := rfl
@[simp] theorem State.updLine_link (l : Line) (f : CustodianLine → CustodianLine) : (s.updLine l f).link = s.link := rfl
@[simp] theorem State.updLine_keys (l : Line) (f : CustodianLine → CustodianLine) : (s.updLine l f).keys = s.keys := rfl
@[simp] theorem State.updLine_engine (l : Line) (f : CustodianLine → CustodianLine) : (s.updLine l f).engine = s.engine := rfl
@[simp] theorem State.updLine_profiles (l : Line) (f : CustodianLine → CustodianLine) : (s.updLine l f).profiles = s.profiles := rfl
@[simp] theorem State.updLine_entries (l : Line) (f : CustodianLine → CustodianLine) : (s.updLine l f).entries = s.entries := rfl
@[simp] theorem State.updLine_orders (l : Line) (f : CustodianLine → CustodianLine) : (s.updLine l f).orders = s.orders := rfl
@[simp] theorem State.updLine_ports (l : Line) (f : CustodianLine → CustodianLine) : (s.updLine l f).ports = s.ports := rfl
@[simp] theorem State.updLine_journal (l : Line) (f : CustodianLine → CustodianLine) : (s.updLine l f).journal = s.journal := rfl

@[simp] theorem State.setSlot_pending (i : SlotNo) (x : Slot) : (s.setSlot i x).pending = s.pending := rfl
@[simp] theorem State.setSlot_agenda (i : SlotNo) (x : Slot) : (s.setSlot i x).agenda = s.agenda := rfl
@[simp] theorem State.setSlot_pins (i : SlotNo) (x : Slot) : (s.setSlot i x).pins = s.pins := rfl
@[simp] theorem State.setSlot_link (i : SlotNo) (x : Slot) : (s.setSlot i x).link = s.link := rfl
@[simp] theorem State.setSlot_custody (i : SlotNo) (x : Slot) : (s.setSlot i x).custody = s.custody := rfl
@[simp] theorem State.setSlot_engine (i : SlotNo) (x : Slot) : (s.setSlot i x).engine = s.engine := rfl
@[simp] theorem State.setSlot_profiles (i : SlotNo) (x : Slot) : (s.setSlot i x).profiles = s.profiles := rfl
@[simp] theorem State.setSlot_entries (i : SlotNo) (x : Slot) : (s.setSlot i x).entries = s.entries := rfl
@[simp] theorem State.setSlot_orders (i : SlotNo) (x : Slot) : (s.setSlot i x).orders = s.orders := rfl
@[simp] theorem State.setSlot_ports (i : SlotNo) (x : Slot) : (s.setSlot i x).ports = s.ports := rfl
@[simp] theorem State.setSlot_journal (i : SlotNo) (x : Slot) : (s.setSlot i x).journal = s.journal := rfl

@[simp] theorem State.updSlot_pending (i : SlotNo) (f : Slot → Slot) : (s.updSlot i f).pending = s.pending := rfl
@[simp] theorem State.updSlot_agenda (i : SlotNo) (f : Slot → Slot) : (s.updSlot i f).agenda = s.agenda := rfl
@[simp] theorem State.updSlot_pins (i : SlotNo) (f : Slot → Slot) : (s.updSlot i f).pins = s.pins := rfl
@[simp] theorem State.updSlot_link (i : SlotNo) (f : Slot → Slot) : (s.updSlot i f).link = s.link := rfl
@[simp] theorem State.updSlot_custody (i : SlotNo) (f : Slot → Slot) : (s.updSlot i f).custody = s.custody := rfl
@[simp] theorem State.updSlot_engine (i : SlotNo) (f : Slot → Slot) : (s.updSlot i f).engine = s.engine := rfl
@[simp] theorem State.updSlot_profiles (i : SlotNo) (f : Slot → Slot) : (s.updSlot i f).profiles = s.profiles := rfl
@[simp] theorem State.updSlot_entries (i : SlotNo) (f : Slot → Slot) : (s.updSlot i f).entries = s.entries := rfl
@[simp] theorem State.updSlot_orders (i : SlotNo) (f : Slot → Slot) : (s.updSlot i f).orders = s.orders := rfl
@[simp] theorem State.updSlot_ports (i : SlotNo) (f : Slot → Slot) : (s.updSlot i f).ports = s.ports := rfl
@[simp] theorem State.updSlot_journal (i : SlotNo) (f : Slot → Slot) : (s.updSlot i f).journal = s.journal := rfl

@[simp] theorem State.setProfile_pending (i : Fin 16) (x : Profile) : (s.setProfile i x).pending = s.pending := rfl
@[simp] theorem State.setProfile_agenda (i : Fin 16) (x : Profile) : (s.setProfile i x).agenda = s.agenda := rfl
@[simp] theorem State.setProfile_pins (i : Fin 16) (x : Profile) : (s.setProfile i x).pins = s.pins := rfl
@[simp] theorem State.setProfile_link (i : Fin 16) (x : Profile) : (s.setProfile i x).link = s.link := rfl
@[simp] theorem State.setProfile_keys (i : Fin 16) (x : Profile) : (s.setProfile i x).keys = s.keys := rfl
@[simp] theorem State.setProfile_custody (i : Fin 16) (x : Profile) : (s.setProfile i x).custody = s.custody := rfl
@[simp] theorem State.setProfile_engine (i : Fin 16) (x : Profile) : (s.setProfile i x).engine = s.engine := rfl
@[simp] theorem State.setProfile_entries (i : Fin 16) (x : Profile) : (s.setProfile i x).entries = s.entries := rfl
@[simp] theorem State.setProfile_orders (i : Fin 16) (x : Profile) : (s.setProfile i x).orders = s.orders := rfl
@[simp] theorem State.setProfile_ports (i : Fin 16) (x : Profile) : (s.setProfile i x).ports = s.ports := rfl
@[simp] theorem State.setProfile_journal (i : Fin 16) (x : Profile) : (s.setProfile i x).journal = s.journal := rfl

@[simp] theorem State.updProfile_pending (i : Fin 16) (f : Profile → Profile) : (s.updProfile i f).pending = s.pending := rfl
@[simp] theorem State.updProfile_agenda (i : Fin 16) (f : Profile → Profile) : (s.updProfile i f).agenda = s.agenda := rfl
@[simp] theorem State.updProfile_pins (i : Fin 16) (f : Profile → Profile) : (s.updProfile i f).pins = s.pins := rfl
@[simp] theorem State.updProfile_link (i : Fin 16) (f : Profile → Profile) : (s.updProfile i f).link = s.link := rfl
@[simp] theorem State.updProfile_keys (i : Fin 16) (f : Profile → Profile) : (s.updProfile i f).keys = s.keys := rfl
@[simp] theorem State.updProfile_custody (i : Fin 16) (f : Profile → Profile) : (s.updProfile i f).custody = s.custody := rfl
@[simp] theorem State.updProfile_engine (i : Fin 16) (f : Profile → Profile) : (s.updProfile i f).engine = s.engine := rfl
@[simp] theorem State.updProfile_entries (i : Fin 16) (f : Profile → Profile) : (s.updProfile i f).entries = s.entries := rfl
@[simp] theorem State.updProfile_orders (i : Fin 16) (f : Profile → Profile) : (s.updProfile i f).orders = s.orders := rfl
@[simp] theorem State.updProfile_ports (i : Fin 16) (f : Profile → Profile) : (s.updProfile i f).ports = s.ports := rfl
@[simp] theorem State.updProfile_journal (i : Fin 16) (f : Profile → Profile) : (s.updProfile i f).journal = s.journal := rfl

@[simp] theorem State.setEntry_pending (i : Fin 32) (x : Entry) : (s.setEntry i x).pending = s.pending := rfl
@[simp] theorem State.setEntry_agenda (i : Fin 32) (x : Entry) : (s.setEntry i x).agenda = s.agenda := rfl
@[simp] theorem State.setEntry_pins (i : Fin 32) (x : Entry) : (s.setEntry i x).pins = s.pins := rfl
@[simp] theorem State.setEntry_link (i : Fin 32) (x : Entry) : (s.setEntry i x).link = s.link := rfl
@[simp] theorem State.setEntry_keys (i : Fin 32) (x : Entry) : (s.setEntry i x).keys = s.keys := rfl
@[simp] theorem State.setEntry_custody (i : Fin 32) (x : Entry) : (s.setEntry i x).custody = s.custody := rfl
@[simp] theorem State.setEntry_engine (i : Fin 32) (x : Entry) : (s.setEntry i x).engine = s.engine := rfl
@[simp] theorem State.setEntry_profiles (i : Fin 32) (x : Entry) : (s.setEntry i x).profiles = s.profiles := rfl
@[simp] theorem State.setEntry_orders (i : Fin 32) (x : Entry) : (s.setEntry i x).orders = s.orders := rfl
@[simp] theorem State.setEntry_ports (i : Fin 32) (x : Entry) : (s.setEntry i x).ports = s.ports := rfl
@[simp] theorem State.setEntry_journal (i : Fin 32) (x : Entry) : (s.setEntry i x).journal = s.journal := rfl

@[simp] theorem State.updOrder_pending (n : Nat) (f : Order → Order) : (s.updOrder n f).pending = s.pending := rfl
@[simp] theorem State.updOrder_agenda (n : Nat) (f : Order → Order) : (s.updOrder n f).agenda = s.agenda := rfl
@[simp] theorem State.updOrder_pins (n : Nat) (f : Order → Order) : (s.updOrder n f).pins = s.pins := rfl
@[simp] theorem State.updOrder_link (n : Nat) (f : Order → Order) : (s.updOrder n f).link = s.link := rfl
@[simp] theorem State.updOrder_keys (n : Nat) (f : Order → Order) : (s.updOrder n f).keys = s.keys := rfl
@[simp] theorem State.updOrder_custody (n : Nat) (f : Order → Order) : (s.updOrder n f).custody = s.custody := rfl
@[simp] theorem State.updOrder_engine (n : Nat) (f : Order → Order) : (s.updOrder n f).engine = s.engine := rfl
@[simp] theorem State.updOrder_profiles (n : Nat) (f : Order → Order) : (s.updOrder n f).profiles = s.profiles := rfl
@[simp] theorem State.updOrder_entries (n : Nat) (f : Order → Order) : (s.updOrder n f).entries = s.entries := rfl
@[simp] theorem State.updOrder_ports (n : Nat) (f : Order → Order) : (s.updOrder n f).ports = s.ports := rfl
@[simp] theorem State.updOrder_journal (n : Nat) (f : Order → Order) : (s.updOrder n f).journal = s.journal := rfl

@[simp] theorem State.setWaiting_pending (i : Fin 16) (q : List PortNo) : (s.setWaiting i q).pending = s.pending := rfl
@[simp] theorem State.setWaiting_agenda (i : Fin 16) (q : List PortNo) : (s.setWaiting i q).agenda = s.agenda := rfl
@[simp] theorem State.setWaiting_pins (i : Fin 16) (q : List PortNo) : (s.setWaiting i q).pins = s.pins := rfl
@[simp] theorem State.setWaiting_link (i : Fin 16) (q : List PortNo) : (s.setWaiting i q).link = s.link := rfl
@[simp] theorem State.setWaiting_keys (i : Fin 16) (q : List PortNo) : (s.setWaiting i q).keys = s.keys := rfl
@[simp] theorem State.setWaiting_custody (i : Fin 16) (q : List PortNo) : (s.setWaiting i q).custody = s.custody := rfl
@[simp] theorem State.setWaiting_engine (i : Fin 16) (q : List PortNo) : (s.setWaiting i q).engine = s.engine := rfl
@[simp] theorem State.setWaiting_profiles (i : Fin 16) (q : List PortNo) : (s.setWaiting i q).profiles = s.profiles := rfl
@[simp] theorem State.setWaiting_entries (i : Fin 16) (q : List PortNo) : (s.setWaiting i q).entries = s.entries := rfl
@[simp] theorem State.setWaiting_ports (i : Fin 16) (q : List PortNo) : (s.setWaiting i q).ports = s.ports := rfl
@[simp] theorem State.setWaiting_journal (i : Fin 16) (q : List PortNo) : (s.setWaiting i q).journal = s.journal := rfl

@[simp] theorem State.leaveWaiting_pending (p : PortNo) : (s.leaveWaiting p).pending = s.pending := rfl
@[simp] theorem State.leaveWaiting_agenda (p : PortNo) : (s.leaveWaiting p).agenda = s.agenda := rfl
@[simp] theorem State.leaveWaiting_pins (p : PortNo) : (s.leaveWaiting p).pins = s.pins := rfl
@[simp] theorem State.leaveWaiting_link (p : PortNo) : (s.leaveWaiting p).link = s.link := rfl
@[simp] theorem State.leaveWaiting_keys (p : PortNo) : (s.leaveWaiting p).keys = s.keys := rfl
@[simp] theorem State.leaveWaiting_custody (p : PortNo) : (s.leaveWaiting p).custody = s.custody := rfl
@[simp] theorem State.leaveWaiting_engine (p : PortNo) : (s.leaveWaiting p).engine = s.engine := rfl
@[simp] theorem State.leaveWaiting_profiles (p : PortNo) : (s.leaveWaiting p).profiles = s.profiles := rfl
@[simp] theorem State.leaveWaiting_entries (p : PortNo) : (s.leaveWaiting p).entries = s.entries := rfl
@[simp] theorem State.leaveWaiting_ports (p : PortNo) : (s.leaveWaiting p).ports = s.ports := rfl
@[simp] theorem State.leaveWaiting_journal (p : PortNo) : (s.leaveWaiting p).journal = s.journal := rfl

@[simp] theorem State.setPort_pending (p : PortNo) (x : Port) : (s.setPort p x).pending = s.pending := rfl
@[simp] theorem State.setPort_agenda (p : PortNo) (x : Port) : (s.setPort p x).agenda = s.agenda := rfl
@[simp] theorem State.setPort_pins (p : PortNo) (x : Port) : (s.setPort p x).pins = s.pins := rfl
@[simp] theorem State.setPort_link (p : PortNo) (x : Port) : (s.setPort p x).link = s.link := rfl
@[simp] theorem State.setPort_keys (p : PortNo) (x : Port) : (s.setPort p x).keys = s.keys := rfl
@[simp] theorem State.setPort_custody (p : PortNo) (x : Port) : (s.setPort p x).custody = s.custody := rfl
@[simp] theorem State.setPort_engine (p : PortNo) (x : Port) : (s.setPort p x).engine = s.engine := rfl
@[simp] theorem State.setPort_profiles (p : PortNo) (x : Port) : (s.setPort p x).profiles = s.profiles := rfl
@[simp] theorem State.setPort_entries (p : PortNo) (x : Port) : (s.setPort p x).entries = s.entries := rfl
@[simp] theorem State.setPort_orders (p : PortNo) (x : Port) : (s.setPort p x).orders = s.orders := rfl
@[simp] theorem State.setPort_journal (p : PortNo) (x : Port) : (s.setPort p x).journal = s.journal := rfl

@[simp] theorem State.updPort_pending (p : PortNo) (f : Port → Port) : (s.updPort p f).pending = s.pending := rfl
@[simp] theorem State.updPort_agenda (p : PortNo) (f : Port → Port) : (s.updPort p f).agenda = s.agenda := rfl
@[simp] theorem State.updPort_pins (p : PortNo) (f : Port → Port) : (s.updPort p f).pins = s.pins := rfl
@[simp] theorem State.updPort_link (p : PortNo) (f : Port → Port) : (s.updPort p f).link = s.link := rfl
@[simp] theorem State.updPort_keys (p : PortNo) (f : Port → Port) : (s.updPort p f).keys = s.keys := rfl
@[simp] theorem State.updPort_custody (p : PortNo) (f : Port → Port) : (s.updPort p f).custody = s.custody := rfl
@[simp] theorem State.updPort_engine (p : PortNo) (f : Port → Port) : (s.updPort p f).engine = s.engine := rfl
@[simp] theorem State.updPort_profiles (p : PortNo) (f : Port → Port) : (s.updPort p f).profiles = s.profiles := rfl
@[simp] theorem State.updPort_entries (p : PortNo) (f : Port → Port) : (s.updPort p f).entries = s.entries := rfl
@[simp] theorem State.updPort_orders (p : PortNo) (f : Port → Port) : (s.updPort p f).orders = s.orders := rfl
@[simp] theorem State.updPort_journal (p : PortNo) (f : Port → Port) : (s.updPort p f).journal = s.journal := rfl

@[simp] theorem State.updSession_pending (p : PortNo) (f : Session → Session) : (s.updSession p f).pending = s.pending := rfl
@[simp] theorem State.updSession_agenda (p : PortNo) (f : Session → Session) : (s.updSession p f).agenda = s.agenda := rfl
@[simp] theorem State.updSession_pins (p : PortNo) (f : Session → Session) : (s.updSession p f).pins = s.pins := rfl
@[simp] theorem State.updSession_link (p : PortNo) (f : Session → Session) : (s.updSession p f).link = s.link := rfl
@[simp] theorem State.updSession_keys (p : PortNo) (f : Session → Session) : (s.updSession p f).keys = s.keys := rfl
@[simp] theorem State.updSession_custody (p : PortNo) (f : Session → Session) : (s.updSession p f).custody = s.custody := rfl
@[simp] theorem State.updSession_engine (p : PortNo) (f : Session → Session) : (s.updSession p f).engine = s.engine := rfl
@[simp] theorem State.updSession_profiles (p : PortNo) (f : Session → Session) : (s.updSession p f).profiles = s.profiles := rfl
@[simp] theorem State.updSession_entries (p : PortNo) (f : Session → Session) : (s.updSession p f).entries = s.entries := rfl
@[simp] theorem State.updSession_orders (p : PortNo) (f : Session → Session) : (s.updSession p f).orders = s.orders := rfl
@[simp] theorem State.updSession_journal (p : PortNo) (f : Session → Session) : (s.updSession p f).journal = s.journal := rfl

@[simp] theorem State.tell_pending (t : Task) : (s.tell t).pending = s.pending := rfl
@[simp] theorem State.tell_pins (t : Task) : (s.tell t).pins = s.pins := rfl
@[simp] theorem State.tell_link (t : Task) : (s.tell t).link = s.link := rfl
@[simp] theorem State.tell_keys (t : Task) : (s.tell t).keys = s.keys := rfl
@[simp] theorem State.tell_custody (t : Task) : (s.tell t).custody = s.custody := rfl
@[simp] theorem State.tell_engine (t : Task) : (s.tell t).engine = s.engine := rfl
@[simp] theorem State.tell_profiles (t : Task) : (s.tell t).profiles = s.profiles := rfl
@[simp] theorem State.tell_entries (t : Task) : (s.tell t).entries = s.entries := rfl
@[simp] theorem State.tell_orders (t : Task) : (s.tell t).orders = s.orders := rfl
@[simp] theorem State.tell_ports (t : Task) : (s.tell t).ports = s.ports := rfl
@[simp] theorem State.tell_journal (t : Task) : (s.tell t).journal = s.journal := rfl

@[simp] theorem State.setReceiver_pending (r : Receiver) : (s.setReceiver r).pending = s.pending := rfl
@[simp] theorem State.setReceiver_agenda (r : Receiver) : (s.setReceiver r).agenda = s.agenda := rfl
@[simp] theorem State.setReceiver_pins (r : Receiver) : (s.setReceiver r).pins = s.pins := rfl
@[simp] theorem State.setReceiver_keys (r : Receiver) : (s.setReceiver r).keys = s.keys := rfl
@[simp] theorem State.setReceiver_custody (r : Receiver) : (s.setReceiver r).custody = s.custody := rfl
@[simp] theorem State.setReceiver_engine (r : Receiver) : (s.setReceiver r).engine = s.engine := rfl
@[simp] theorem State.setReceiver_profiles (r : Receiver) : (s.setReceiver r).profiles = s.profiles := rfl
@[simp] theorem State.setReceiver_entries (r : Receiver) : (s.setReceiver r).entries = s.entries := rfl
@[simp] theorem State.setReceiver_orders (r : Receiver) : (s.setReceiver r).orders = s.orders := rfl
@[simp] theorem State.setReceiver_ports (r : Receiver) : (s.setReceiver r).ports = s.ports := rfl
@[simp] theorem State.setReceiver_journal (r : Receiver) : (s.setReceiver r).journal = s.journal := rfl

@[simp] theorem State.verifyOver_pending : (s.verifyOver).pending = s.pending := rfl
@[simp] theorem State.verifyOver_agenda : (s.verifyOver).agenda = s.agenda := rfl
@[simp] theorem State.verifyOver_pins : (s.verifyOver).pins = s.pins := rfl
@[simp] theorem State.verifyOver_link : (s.verifyOver).link = s.link := rfl
@[simp] theorem State.verifyOver_custody : (s.verifyOver).custody = s.custody := rfl
@[simp] theorem State.verifyOver_engine : (s.verifyOver).engine = s.engine := rfl
@[simp] theorem State.verifyOver_profiles : (s.verifyOver).profiles = s.profiles := rfl
@[simp] theorem State.verifyOver_entries : (s.verifyOver).entries = s.entries := rfl
@[simp] theorem State.verifyOver_orders : (s.verifyOver).orders = s.orders := rfl
@[simp] theorem State.verifyOver_ports : (s.verifyOver).ports = s.ports := rfl
@[simp] theorem State.verifyOver_journal : (s.verifyOver).journal = s.journal := rfl

@[simp] theorem State.raise_link (f : EventFlag) : (s.raise f).link = s.link.raise f := rfl
@[simp] theorem State.raiseGlobal_link (g : GlobalFlag) : (s.raiseGlobal g).link = s.link.raise (.global g) := rfl
@[simp] theorem State.raisePort_link (k : PortFlag) (p : PortNo) : (s.raisePort k p).link = s.link.raise (.port k p) := rfl
@[simp] theorem State.updEngine_engine (f : Engine → Engine) : (s.updEngine f).engine = f s.engine := rfl
@[simp] theorem State.updCustody_custody (f : CustodyUnit → CustodyUnit) : (s.updCustody f).custody = f s.custody := rfl
@[simp] theorem State.updJournal_journal (f : Journal → Journal) : (s.updJournal f).journal = f s.journal := rfl
@[simp] theorem State.setReceiver_link (r : Receiver) : (s.setReceiver r).link = { s.link with receiver := r } := rfl

@[simp] theorem State.slot_setSlot_self (i : SlotNo) (x : Slot) : (s.setSlot i x).slot i = x := by
  simp [State.slot, State.setSlot]
theorem State.slot_setSlot_ne {i k : SlotNo} (x : Slot) (h : k ≠ i) : (s.setSlot i x).slot k = s.slot k :=
  Bank.look_put_ne _ x h
@[simp] theorem State.slot_updSlot_self (i : SlotNo) (f : Slot → Slot) : (s.updSlot i f).slot i = f (s.slot i) := by
  simp [State.updSlot]
@[simp] theorem State.profile_setProfile_self (i : Fin 16) (x : Profile) : (s.setProfile i x).profile i = x := by
  simp [State.profile, State.setProfile]
@[simp] theorem State.profile_updProfile_self (i : Fin 16) (f : Profile → Profile) :
    (s.updProfile i f).profile i = f (s.profile i) := by
  simp [State.updProfile]
@[simp] theorem State.entry_setEntry_self (i : Fin 32) (x : Entry) : (s.setEntry i x).entry i = x := by
  simp [State.entry, State.setEntry]
@[simp] theorem State.port_setPort_self (p : PortNo) (x : Port) : (s.setPort p x).port p = x := by
  simp [State.port, State.setPort]
@[simp] theorem State.port_updPort_self (p : PortNo) (f : Port → Port) : (s.updPort p f).port p = f (s.port p) := by
  simp [State.updPort]
theorem State.port_updPort_ne {p q : PortNo} (f : Port → Port) (h : q ≠ p) : (s.updPort p f).port q = s.port q :=
  Bank.look_put_ne _ _ h
@[simp] theorem State.session_updSession_self (p : PortNo) (f : Session → Session) :
    (s.updSession p f).session? p = (s.session? p).map f := by
  simp [State.session?, State.updSession]

/-! ## Flags -/

@[simp] theorem LinkController.raise_frame (l : LinkController) (f : EventFlag) :
    l.raise f = { l with pending := l.pending ||| f.single } := rfl

/-- A raise sets no bit of a flag set that names no flag (R200). -/
theorem EventFlag.single_unused (f : EventFlag) : f.single &&& unusedFlagBits = 0 := by
  cases f with
  | global g => cases g <;> decide
  | port k p =>
    have : ∀ (k : Fin 4) (p : Fin 16), (1#88 <<< (63 - (4 * p.val + k.val))) &&& unusedFlagBits = 0 := by decide
    cases k <;> first | exact this 0 p | exact this 1 p | exact this 2 p | exact this 3 p

end Sys2Proof.Machine
end

