-- ==== Sys2Proof/Laws/Follows.lean ====
section
/-! SUPPORT. What the blocks can do to one another within a step, said once: `Follows s t` says that `t` follows
from `s` by the part's own operations. The queue, the pins, the modes and counts of the Link Controller and the
ports' settings stand, flags only become pending, a reply once formed stands, and a lawful state stays
lawful. -/

namespace Sys2Proof.Machine

/-- `t` follows from `s` by the part's own operations. -/
structure Follows (s t : State) : Prop where
  queue : t.pending = s.pending
  pins : t.pins = s.pins
  link : t.link = { s.link with pending := t.link.pending, owed := t.link.owed }
  grows : ∀ i, s.link.pending.getLsbD i = true → t.link.pending.getLsbD i = true
  owed : ∀ o b, s.link.owed = some o → o.body = some b → t.link.owed = some o
  settings : ∀ p, (t.port p).settings = (s.port p).settings
  ok : s.Ok → t.Ok

theorem Follows.refl (s : State) : Follows s s := ⟨rfl, rfl, rfl, fun _ h => h, fun _ _ h _ => h, fun _ => rfl, id⟩

theorem Follows.trans {s t u : State} (h : Follows s t) (k : Follows t u) : Follows s u where
  queue := k.queue.trans h.queue
  pins := k.pins.trans h.pins
  link := by rw [k.link, h.link]
  grows i x := k.grows i (h.grows i x)
  owed o b x y := k.owed o b (h.owed o b x y) y
  settings p := (k.settings p).trans (h.settings p)
  ok := k.ok ∘ h.ok

/-- An update that leaves queue, pins, link and ports follows if it keeps the state lawful. -/
theorem Follows.same {s t : State} (hq : t.pending = s.pending) (hp : t.pins = s.pins) (hl : t.link = s.link)
    (ho : t.ports = s.ports) (hok : s.Ok → t.Ok) : Follows s t where
  queue := hq
  pins := hp
  link := by rw [hl]
  grows i x := by rw [hl]; exact x
  owed o b x _ := by rw [hl]; exact x
  settings p := by simp [State.port, ho]
  ok := hok

section Base

variable {s₀ s : State}

/-! ## Flags and replies -/

theorem LinkController.Ok.raise {l : LinkController} (h : l.Ok) (f : EventFlag) : (l.raise f).Ok where
  crc := h.crc
  form := h.form
  overruns := h.overruns
  seconds := h.seconds
  pending := by
    have a := h.pending
    have b := f.single_unused
    simp only [LinkController.raise_frame]
    rw [BitVec.and_comm, BitVec.and_or_distrib_left, BitVec.and_comm, a, BitVec.and_comm, b]; rfl
  mask := h.mask

theorem Follows.raise (h : Follows s₀ s) (f : EventFlag) : Follows s₀ (s.raise f) :=
  h.trans ⟨rfl, rfl, rfl, fun i x => by simp [x], fun _ _ x _ => x, fun _ => rfl,
    fun k => { k with link := k.link.raise f }⟩

theorem Follows.raiseGlobal (h : Follows s₀ s) (g : GlobalFlag) : Follows s₀ (s.raiseGlobal g) := h.raise _
theorem Follows.raisePort (h : Follows s₀ s) (k : PortFlag) (p : PortNo) : Follows s₀ (s.raisePort k p) := h.raise _

theorem Follows.raiseWhen (h : Follows s₀ s) (c : Bool) (g : GlobalFlag) : Follows s₀ (s.raiseWhen c g) := by
  unfold State.raiseWhen; split
  · exact h.raiseGlobal g
  · exact h

theorem Follows.answer (h : Follows s₀ s) (st : Status) (r : List Byte) : Follows s₀ (s.answer st r) := by
  unfold State.answer
  split
  · exact h
  · rename_i o ho
    split
    · exact h
    · rename_i hb
      refine h.trans ⟨rfl, rfl, rfl, fun _ x => x, fun o' b x y => ?_, fun _ => rfl, fun k => { k with link := ?_ }⟩
      · rw [ho] at x; cases x; rw [hb] at y; cases y
      · exact ⟨k.link.crc, k.link.form, k.link.overruns, k.link.seconds, k.link.pending, k.link.mask⟩

theorem Follows.refuse (h : Follows s₀ s) (st : Status) : Follows s₀ (s.refuse st) := h.answer st []

/-! ## Updates of one block -/

theorem Follows.agenda (h : Follows s₀ s) (ts : List Task) : Follows s₀ { s with agenda := ts } :=
  h.trans (.same rfl rfl rfl rfl fun k => { k with })

theorem Follows.tell (h : Follows s₀ s) (t : Task) : Follows s₀ (s.tell t) := h.agenda _

theorem Follows.updEngine (h : Follows s₀ s) (f : Engine → Engine)
    (hf : s.engine.Ok → (f s.engine).Ok) : Follows s₀ (s.updEngine f) :=
  h.trans (.same rfl rfl rfl rfl fun k => { k with engine := hf k.engine })

theorem Follows.updCustody (h : Follows s₀ s) (f : CustodyUnit → CustodyUnit) (hf : s.custody.Ok → (f s.custody).Ok) :
    Follows s₀ (s.updCustody f) :=
  h.trans (.same rfl rfl rfl rfl fun k => { k with custody := hf k.custody })

theorem Follows.updJournal (h : Follows s₀ s) (f : Journal → Journal) (hf : s.journal.Ok → (f s.journal).Ok) :
    Follows s₀ (s.updJournal f) :=
  h.trans (.same rfl rfl rfl rfl fun k => { k with journal := hf k.journal })

theorem Follows.setSlot (h : Follows s₀ s) (i : SlotNo) (x : Slot) (hx : s.Ok → x.Ok) : Follows s₀ (s.setSlot i x) :=
  h.trans (.same rfl rfl rfl rfl fun k => { k with
    keys := { slots := Bank.forall_put i k.keys.slots (hx k), corrected := k.keys.corrected } })

theorem State.Ok.slot (h : s.Ok) (i : SlotNo) : (s.slot i).Ok := h.keys.slots i
theorem State.Ok.port (h : s.Ok) (p : PortNo) : (s.port p).Ok := h.ports p
theorem State.Ok.entry (h : s.Ok) (i : Fin 32) : (s.entry i).Ok := h.entries i
theorem State.Ok.profile (h : s.Ok) (i : Fin 16) : (s.profile i).Ok := h.profiles i

theorem Follows.updSlot (h : Follows s₀ s) (i : SlotNo) (f : Slot → Slot) (hf : (s.slot i).Ok → (f (s.slot i)).Ok) :
    Follows s₀ (s.updSlot i f) := h.setSlot i _ fun k => hf (k.slot i)

theorem Follows.setProfile (h : Follows s₀ s) (i : Fin 16) (x : Profile) (hx : s.Ok → x.Ok) :
    Follows s₀ (s.setProfile i x) :=
  h.trans (.same rfl rfl rfl rfl fun k => { k with profiles := Bank.forall_put i k.profiles (hx k) })

theorem Follows.updProfile (h : Follows s₀ s) (i : Fin 16) (f : Profile → Profile)
    (hf : (s.profile i).Ok → (f (s.profile i)).Ok) : Follows s₀ (s.updProfile i f) :=
  h.setProfile i _ fun k => hf (k.profile i)

theorem Follows.setEntry (h : Follows s₀ s) (i : Fin 32) (x : Entry) (hx : s.Ok → x.Ok) : Follows s₀ (s.setEntry i x) :=
  h.trans (.same rfl rfl rfl rfl fun k => { k with entries := Bank.forall_put i k.entries (hx k) })

/-- A change of the orders that keeps each one's number and keeps a lawful one lawful keeps the table lawful. -/
theorem OrderTable.Ok.map {t : OrderTable} (h : t.Ok) (f : Order → Order) (hn : ∀ o, (f o).number = o.number)
    (hf : ∀ o ∈ t.orders, o.Ok → (f o).Ok) : { t with orders := t.orders.map f : OrderTable }.Ok where
  size := by simpa using h.size
  numbers := by
    have : (t.orders.map f).map (·.number) = t.orders.map (·.number) := by simp [Function.comp_def, hn]
    simpa only [this] using h.numbers
  placements := h.placements
  orders o ho := by
    obtain ⟨x, hx, rfl⟩ := List.mem_map.mp ho
    exact hf x hx (h.orders x hx)

theorem Follows.mapOrders (h : Follows s₀ s) (f : Order → Order) (hn : ∀ o, (f o).number = o.number)
    (hf : ∀ o, o.Ok → (f o).Ok) :
    Follows s₀ { s with orders := { s.orders with orders := s.orders.orders.map f } } :=
  h.trans (.same rfl rfl rfl rfl fun k => { k with orders := k.orders.map f hn fun o _ => hf o })

theorem Follows.updOrder (h : Follows s₀ s) (n : Nat) (f : Order → Order) (hf : ∀ o, o.Ok → (f o).Ok)
    (hn : ∀ o, (f o).number = o.number := by intro _; rfl) : Follows s₀ (s.updOrder n f) :=
  h.mapOrders _ (fun o => by split <;> simp [hn]) (fun o k => by split <;> simp [*])

/-- Two orders of a lawful table with the same number are one. -/
theorem OrderTable.Ok.unique {t : OrderTable} (h : t.Ok) {o x : Order} (ho : o ∈ t.orders) (hx : x ∈ t.orders)
    (e : x.number = o.number) : x = o := by
  have f : ∀ l : List Order, (l.map (·.number)).Nodup → o ∈ l → x ∈ l → x = o := by
    intro l
    induction l with
    | nil => intro _ a; cases a
    | cons y ys ih =>
      intro d a b
      obtain ⟨n, d⟩ := List.nodup_cons.mp d
      rcases List.mem_cons.mp a with rfl | a <;> rcases List.mem_cons.mp b with rfl | b
      · rfl
      · exact (n (List.mem_map.mpr ⟨x, ‹_›, e⟩)).elim
      · exact (n (List.mem_map.mpr ⟨o, ‹_›, e.symm⟩)).elim
      · exact ih d a b
  exact f _ h.numbers ho hx

/-- A change of the order of a number that the table has. -/
theorem Follows.updOrderAt (h : Follows s₀ s) {o : Order} (ho : o ∈ s.orders.orders) (f : Order → Order)
    (hf : o.Ok → (f o).Ok) (hn : ∀ o, (f o).number = o.number := by intro _; rfl) : Follows s₀ (s.updOrder o.number f) :=
  h.trans (.same rfl rfl rfl rfl fun k => { k with
    orders := k.orders.map _ (fun x => by split <;> simp [hn]) fun x hx kx => by
      split
      · rename_i e; cases k.orders.unique ho hx e; exact hf kx
      · exact kx })

theorem State.order?_spec {n : Nat} {o : Order} (h : s.order? n = some o) : o ∈ s.orders.orders ∧ o.number = n :=
  ⟨List.mem_of_find?_eq_some h, by simpa using List.find?_some h⟩

theorem Follows.waiting (h : Follows s₀ s) (w : Bank (List PortNo) 16) :
    Follows s₀ { s with orders := { s.orders with waiting := w } } :=
  h.trans (.same rfl rfl rfl rfl fun k => { k with
    orders := ⟨k.orders.size, k.orders.numbers, k.orders.placements, k.orders.orders⟩ })

theorem Follows.setWaiting (h : Follows s₀ s) (p : Fin 16) (q : List PortNo) : Follows s₀ (s.setWaiting p q) := h.waiting _
theorem Follows.leaveWaiting (h : Follows s₀ s) (p : PortNo) : Follows s₀ (s.leaveWaiting p) := h.waiting _

theorem Follows.updPort (h : Follows s₀ s) (p : PortNo) (f : Port → Port) (hs : ∀ q, (f q).settings = q.settings)
    (hf : (s.port p).Ok → (f (s.port p)).Ok) : Follows s₀ (s.updPort p f) :=
  h.trans
    { queue := rfl
      pins := rfl
      link := rfl
      grows := fun _ x => x
      owed := fun _ _ x _ => x
      settings := fun q => by
        by_cases hq : q = p
        · subst hq; simp [hs]
        · rw [State.port_updPort_ne s f hq]
      ok := fun k => { k with ports := Bank.forall_put p k.ports (hf (k.port p)) } }

/-- A change of a port that leaves its settings, score and line error counts keeps it lawful. -/
theorem Port.Ok.of_eq {q r : Port} (h : q.Ok) (h1 : r.settings = q.settings) (h2 : r.score = q.score)
    (h3 : r.checkErrors = q.checkErrors) (h4 : r.cutErrors = q.cutErrors) (h5 : r.lengthErrors = q.lengthErrors)
    (h6 : r.timeoutErrors = q.timeoutErrors) : r.Ok :=
  ⟨h1 ▸ h.settings, h2 ▸ h.score, h3 ▸ h.checkErrors, h4 ▸ h.cutErrors, h5 ▸ h.lengthErrors, h6 ▸ h.timeoutErrors⟩

theorem Follows.updSession (h : Follows s₀ s) (p : PortNo) (f : Session → Session) : Follows s₀ (s.updSession p f) :=
  h.updPort p _ (fun _ => rfl) (fun k => k.of_eq rfl rfl rfl rfl rfl rfl)

theorem Follows.verifyOver (h : Follows s₀ s) : Follows s₀ s.verifyOver :=
  h.trans (.same rfl rfl rfl rfl fun k => { k with keys := ⟨k.keys.slots, k.keys.corrected⟩ })

theorem CustodyUnit.presentOn_setLine (c : CustodyUnit) (l m : Line) (x : CustodianLine) :
    (c.setLine l x).presentOn m = if m = l then x.presence.map (·.custodian) else c.presentOn m := by
  cases l <;> cases m <;> rfl

@[simp] theorem CustodyUnit.setLine_window (c : CustodyUnit) (l : Line) (x : CustodianLine) :
    (c.setLine l x).window = c.window := by cases l <;> rfl
@[simp] theorem CustodyUnit.setLine_intake (c : CustodyUnit) (l : Line) (x : CustodianLine) :
    (c.setLine l x).intake = c.intake := by cases l <;> rfl

/-- A change of a line that leaves who is present keeps the Custody Unit lawful. -/
theorem Follows.updLine (h : Follows s₀ s) (l : Line) (f : CustodianLine → CustodianLine)
    (hf : ∀ x, (f x).presence = x.presence) : Follows s₀ (s.updLine l f) := by
  refine h.trans (.same rfl rfl rfl rfl fun k => { k with custody := ?_ })
  have e : ∀ m, (s.updLine l f).custody.presentOn m = s.custody.presentOn m := by
    intro m
    show (s.custody.setLine l (f (s.custody.line l))).presentOn m = _
    rw [CustodyUnit.presentOn_setLine]; split
    · subst_vars; simp [hf, CustodyUnit.presentOn]
    · rfl
  have w : (s.updLine l f).custody.window = s.custody.window := s.custody.setLine_window l _
  have i : (s.updLine l f).custody.intake = s.custody.intake := s.custody.setLine_intake l _
  exact ⟨fun m n x => k.custody.number m n (e m ▸ x), fun n x => by rw [e] at x ⊢; exact k.custody.different n x,
    fun v x => by rw [e, e]; exact k.custody.window v (w ▸ x), by rw [i]; exact k.custody.intake⟩

theorem Follows.foldl {α : Type} (f : State → α → State) (hf : ∀ s x, Follows s (f s x)) (xs : List α)
    (h : Follows s₀ s) : Follows s₀ (xs.foldl f s) := by
  induction xs generalizing s with
  | nil => exact h
  | cons x xs ih => exact ih (h.trans (hf s x))

/-- The state after a function that answers a pair. -/
theorem Follows.pair {α : Type} {r : α × State} {a : α} {t : State} (h : Follows s₀ r.2) (e : r = (a, t)) :
    Follows s₀ t := by rw [e] at h; exact h

end Base

end Sys2Proof.Machine
end

