-- ==== Sys2Proof/Laws/Memory.lean ====
section
/-! SUPPORT. What a read of the protected memory can do (R5 to R7, R82, R90), and the Key Store's part in it. -/

namespace Sys2Proof.Machine

variable {s₀ s : State}

theorem saturate_le (limit n : Nat) : saturate limit n ≤ limit := Nat.min_le_left _ _

theorem Follows.countCorrected (h : Follows s₀ s) (n : Nat) : Follows s₀ (s.countCorrected n) := by
  unfold State.countCorrected; split
  · exact h
  · refine Follows.raiseGlobal (h.trans ?_) _
    exact .same rfl rfl rfl rfl fun k => { k with keys := ⟨k.keys.slots, saturate_le _ _⟩ }

@[simp] theorem State.countCorrected_slot (s : State) (n : Nat) (i : SlotNo) : (s.countCorrected n).slot i = s.slot i := by
  unfold State.countCorrected; split <;> rfl
@[simp] theorem State.countCorrected_profile (s : State) (n : Nat) (i : Fin 16) :
    (s.countCorrected n).profile i = s.profile i := by
  unfold State.countCorrected; split <;> rfl
@[simp] theorem State.countCorrected_entry (s : State) (n : Nat) (i : Fin 32) :
    (s.countCorrected n).entry i = s.entry i := by
  unfold State.countCorrected; split <;> rfl
@[simp] theorem State.countCorrected_journal (s : State) (n : Nat) : (s.countCorrected n).journal = s.journal := by
  unfold State.countCorrected; split <;> rfl
@[simp] theorem State.countCorrected_custody (s : State) (n : Nat) : (s.countCorrected n).custody = s.custody := by
  unfold State.countCorrected; split <;> rfl

/-! ## How many words of a group can be wrong -/

/-- A group has at most one wrong bit in each of as many words as it has, whatever arises in it (R5, R6). -/
theorem GroupMem.upset_singles {g : GroupMem} {words : Nat} (h : g.singles ≤ words) (twoBits : Bool) :
    (g.upset words twoBits).singles ≤ words := by
  unfold GroupMem.upset
  split
  · exact h
  · rename_i k
    rw [Bool.or_eq_true, decide_eq_true_eq, not_or] at k
    exact Nat.lt_of_not_le k.2

/-- So a read of the group counts no more words than it has (R5, R6). -/
theorem GroupMem.found_le {g : GroupMem} {words : Nat} (h : g.singles ≤ words) : g.found ≤ words := by
  unfold GroupMem.found
  split <;> omega

/-- A group freshly written has no word with a wrong bit. -/
theorem GroupMem.clean_singles (words : Nat) : GroupMem.clean.singles ≤ words := Nat.zero_le _

/-- The key group of a slot: four words for a 16-byte key, eight for a 32-byte key (R6). -/
theorem Slot.groupWords_key {x : Slot} {k : KeyKind} (h : x.kind = some k) :
    x.groupWords .key = if k = .a32 then 8 else 4 := by
  cases k <;> simp [Slot.groupWords, h, KeyKind.length]

/-! ## Slots -/

/-- A slot whose range, role and state stand is as lawful as it was. -/
theorem Slot.Ok.mem {x : Slot} (h : x.Ok) (m : SlotMem) : { x with mem := m : Slot }.Ok := ⟨h.range, h.root, h.state⟩

/-- A slot made DAMAGED keeps its range record (R1). -/
theorem Slot.Ok.damage {x : Slot} (h : x.Ok) (n : Nat) (m : SlotMem) :
    { x with state := .damaged, holders := n, mem := m : Slot }.Ok := ⟨h.range, h.root, fun _ => by simp⟩

/-- A slot without a range record is lawful. -/
theorem Slot.Ok.noRange {x : Slot} (h : x.range = none) : x.Ok := by
  constructor <;> simp [h]

theorem Slot.Ok.withState {x : Slot} (h : x.Ok) (t : SlotState) (ht : t ≠ .empty ∧ t ≠ .assembling) (m : SlotMem) :
    { x with state := t, mem := m : Slot }.Ok := ⟨h.range, h.root, fun _ => ht⟩

theorem Follows.readSlotWords (h : Follows s₀ s) (i : SlotNo) (gs : List SlotGroup) :
    Follows s₀ (s.readSlotWords i gs) := by
  have c := fun n => h.countCorrected (n := n)
  unfold State.readSlotWords
  simp only
  split
  · exact Follows.raiseGlobal ((c _).setSlot i _ fun k => (Slot.Ok.damage (by simpa using k.slot i) _ _)) _
  · split
    · split
      · exact (c _).setSlot i _ fun k => Slot.Ok.mem (by simpa using k.slot i) _
      · exact (c _).setSlot i _ fun k => Slot.Ok.mem (by simpa using k.slot i) _
      · exact Follows.raiseGlobal ((c _).setSlot i _ fun k => (Slot.Ok.damage (by simpa using k.slot i) _ _)) _
    · exact (c _).setSlot i _ fun k => Slot.Ok.mem (by simpa using k.slot i) _

/-- A read of a slot's words leaves its range record and its role. -/
theorem State.readSlotWords_slot (s : State) (i : SlotNo) (gs : List SlotGroup) :
    ((s.readSlotWords i gs).slot i).range = (s.slot i).range ∧ ((s.readSlotWords i gs).slot i).role = (s.slot i).role
      ∧ ((s.readSlotWords i gs).slot i).holders = (if (s.slot i).mem.state.fails then s.reportedHolds i else (s.slot i).holders)
      ∧ (((s.readSlotWords i gs).slot i).state = (s.slot i).state ∨ ((s.readSlotWords i gs).slot i).state = .damaged) := by
  have hr : ∀ n, ((s.countCorrected n).reportedHolds i) = s.reportedHolds i := fun n => by
    unfold State.countCorrected; split <;> rfl
  have hs : ∀ (t : State) x g, (State.raiseGlobal (t.setSlot i x) g).slot i = x := fun t x g =>
    State.slot_setSlot_self t i x
  unfold State.readSlotWords
  simp only
  split
  · refine ⟨?_, ?_, ?_, ?_⟩ <;> simp_all
  · split
    · split <;> simp [*]
    · simp [*]

/-- A read of a slot's words leaves every other slot. -/
theorem State.readSlotWords_other (s : State) {i k : SlotNo} (gs : List SlotGroup) (hk : k ≠ i) :
    (s.readSlotWords i gs).slot k = s.slot k := by
  have hs : ∀ (t : State) x, (t.setSlot i x).slot k = t.slot k := fun t x => State.slot_setSlot_ne t x hk
  have hg : ∀ (t : State) x g, (State.raiseGlobal (t.setSlot i x) g).slot k = t.slot k := fun t x g => hs t x
  unfold State.readSlotWords
  simp only
  split
  · rw [hg]; simp
  · split
    · split
      · rw [hs]; simp
      · rw [hs]; simp
      · rw [hg]; simp
    · rw [hs]; simp

/-- A slot without latent double errors in the groups read keeps its state. -/
theorem State.readSlotWords_state (s : State) (i : SlotNo) (gs : List SlotGroup)
    (h0 : (s.slot i).mem.state.fails = false) (hg : ∀ g ∈ gs, ((s.slot i).mem.get g).fails = false) :
    ((s.readSlotWords i gs).slot i).state = (s.slot i).state := by
  have : gs.any (fun g => ((s.slot i).mem.get g).fails) = false := by simpa using hg
  unfold State.readSlotWords
  simp [h0, this]

/-! ## Profiles and entries -/

theorem Profile.Ok.mem {x : Profile} (h : x.Ok) (m : ProfileMem) : { x with mem := m : Profile }.Ok := h
theorem Profile.Ok.damage (x : Profile) (m : ProfileMem) : { x with state := .damaged, mem := m : Profile }.Ok :=
  fun e => by cases e

theorem Follows.readProfileWords (h : Follows s₀ s) (i : Fin 16) (gs : List ProfGroup) :
    Follows s₀ (s.readProfileWords i gs) := by
  have c := fun n => h.countCorrected (n := n)
  unfold State.readProfileWords
  simp only
  split
  · exact Follows.raiseGlobal ((c _).setProfile i _ fun _ => Profile.Ok.damage _ _) _
  · split
    · split
      · exact (c _).setProfile i _ fun k => Profile.Ok.mem (by simpa using k.profile i) _
      · exact (c _).setProfile i _ fun k => Profile.Ok.mem (by simpa using k.profile i) _
      · exact Follows.raiseGlobal ((c _).setProfile i _ fun _ => Profile.Ok.damage _ _) _
    · exact (c _).setProfile i _ fun k => Profile.Ok.mem (by simpa using k.profile i) _

theorem Follows.readProfile (h : Follows s₀ s) (i : Fin 16) : Follows s₀ (s.readProfile i) := h.readProfileWords i _
theorem Follows.readProfileState (h : Follows s₀ s) (i : Fin 16) : Follows s₀ (s.readProfileState i) :=
  h.readProfileWords i _

theorem Follows.readEntry (h : Follows s₀ s) (i : Fin 32) (both : Bool) : Follows s₀ (s.readEntry i both) := by
  unfold State.readEntry
  simp only
  split
  · refine Follows.raiseGlobal ((h.countCorrected _).setEntry i _ fun _ => ?_) _
    rename_i hc
    intro he
    simp_all
  · refine (h.countCorrected _).setEntry i _ fun k => ?_
    have ke := k.entry i
    simp only [State.countCorrected_entry] at ke
    intro he
    simp_all [Entry.Ok]

end Sys2Proof.Machine
end

