-- ==== Sys2Proof/Laws/Journal.lean ====
section
/-! SUPPORT. What each operation of the Journal can do (R164 to R177, R183): it follows in the sense of
`Follows`. -/

namespace Sys2Proof.Machine

variable {s₀ s : State} {j k : Journal}

/-! ## Lawful journals -/

/-- A change that leaves the counters, the flash, the custody places, the level and the failure counts. -/
theorem Journal.Ok.frame (h : j.Ok) (h1 : k.nextSeq = j.nextSeq) (h2 : k.released = j.released) (h3 : k.flash = j.flash)
    (h4 : k.custodyOut ≤ j.custodyOut) (h5 : k.warnLevel = j.warnLevel) (h6 : k.programFailures = j.programFailures)
    (h7 : k.eraseFailures = j.eraseFailures) : k.Ok where
  next := h1 ▸ h.next
  released := by unfold Journal.newest; rw [h1, h2]; exact h.released
  program seq bytes e := by rw [h1]; exact h.program seq bytes (h3 ▸ e)
  custodyOut := Nat.le_trans h4 h.custodyOut
  warnLevel := h5 ▸ h.warnLevel
  programFailures := h6 ▸ h.programFailures
  eraseFailures := h7 ▸ h.eraseFailures

/-- The flash turned to something that is no program of an append, or to one of the present next sequence. -/
theorem Journal.Ok.withFlash (h : j.Ok) (f : Flash)
    (hf : ∀ seq bytes, f = .programming (.append seq bytes) → seq = j.nextSeq.value) : { j with flash := f : Journal }.Ok :=
  ⟨h.next, h.released, hf, h.custodyOut, h.warnLevel, h.programFailures, h.eraseFailures⟩

theorem Journal.Ok.idle (h : j.Ok) : { j with flash := .idle : Journal }.Ok := h.withFlash _ fun _ _ e => by cases e

theorem Journal.Ok.countProgramFailure (h : j.Ok) (n : Nat) :
    { j with programFailures := saturate 65535 n : Journal }.Ok :=
  ⟨h.next, h.released, h.program, h.custodyOut, h.warnLevel, saturate_le _ _, h.eraseFailures⟩

theorem Journal.Ok.countEraseFailure (h : j.Ok) (n : Nat) : { j with eraseFailures := saturate 65535 n : Journal }.Ok :=
  ⟨h.next, h.released, h.program, h.custodyOut, h.warnLevel, h.programFailures, saturate_le _ _⟩

theorem Journal.Ok.updSegment (h : j.Ok) (i : Fin 64) (f : Segment → Segment) : (j.updSegment i f).Ok :=
  h.frame rfl rfl rfl (Nat.le_refl _) rfl rfl rfl

theorem Journal.Ok.judgeReclaim (h : j.Ok) : j.judgeReclaim.Ok := h.frame rfl rfl rfl (Nat.le_refl _) rfl rfl rfl

theorem Journal.Ok.popHead (h : j.Ok) : j.popHead.Ok := by
  unfold Journal.popHead; split <;> exact h.frame rfl rfl rfl (Nat.le_refl _) rfl rfl rfl

theorem Journal.Ok.writePart (h : j.Ok) (r : RecordRef) (b : List Byte) (f : Bool) : (j.writePart r b f).Ok :=
  h.updSegment _ _

theorem Journal.Ok.endPromise (h : j.Ok) (e : QueueEntry) : (j.endPromise e).Ok := by
  unfold Journal.endPromise
  split
  · split <;> exact h.frame rfl rfl rfl (by simp) rfl rfl rfl
  · exact h.frame rfl rfl rfl (by simp) rfl rfl rfl
  · exact h

@[simp] theorem Journal.endPromise_nextSeq (j : Journal) (e : QueueEntry) : (j.endPromise e).nextSeq = j.nextSeq := by
  unfold Journal.endPromise; split <;> (try split) <;> rfl
@[simp] theorem Journal.endPromise_released (j : Journal) (e : QueueEntry) : (j.endPromise e).released = j.released := by
  unfold Journal.endPromise; split <;> (try split) <;> rfl
@[simp] theorem Journal.endPromise_newest (j : Journal) (e : QueueEntry) : (j.endPromise e).newest = j.newest := by
  simp [Journal.newest]

/-- An update of the Journal that leaves the counters, the flash, the level and the failure counts. -/
theorem Follows.frameJournal (h : Follows s₀ s) (f : Journal → Journal)
    (h1 : (f s.journal).nextSeq = s.journal.nextSeq := by rfl)
    (h2 : (f s.journal).released = s.journal.released := by rfl) (h3 : (f s.journal).flash = s.journal.flash := by rfl)
    (h4 : (f s.journal).custodyOut ≤ s.journal.custodyOut := by exact Nat.le_refl _)
    (h5 : (f s.journal).warnLevel = s.journal.warnLevel := by rfl)
    (h6 : (f s.journal).programFailures = s.journal.programFailures := by rfl)
    (h7 : (f s.journal).eraseFailures = s.journal.eraseFailures := by rfl) : Follows s₀ (s.updJournal f) :=
  h.updJournal f fun k => k.frame h1 h2 h3 h4 h5 h6 h7

/-! ## The warning and the acceptance -/

theorem Follows.judgeHigh (h : Follows s₀ s) : Follows s₀ s.judgeHigh := by
  have u : ∀ b, Follows s₀ (s.updJournal fun j => { j with highNoted := b }) := fun b =>
    h.frameJournal _
  unfold State.judgeHigh
  split
  · split
    · exact h
    · exact (u true).raiseGlobal _
  · exact u false

@[simp] theorem State.judgeHigh_nextSeq (s : State) : s.judgeHigh.journal.nextSeq = s.journal.nextSeq := by
  unfold State.judgeHigh; split <;> (try split) <;> rfl
@[simp] theorem State.judgeHigh_flash (s : State) : s.judgeHigh.journal.flash = s.journal.flash := by
  unfold State.judgeHigh; split <;> (try split) <;> rfl
@[simp] theorem State.judgeHigh_state (s : State) : s.judgeHigh.journal.state = s.journal.state := by
  unfold State.judgeHigh; split <;> (try split) <;> rfl

theorem Follows.noteRefusal (h : Follows s₀ s) : Follows s₀ s.noteRefusal :=
  (h.raiseGlobal _).raiseWhen _ _

theorem Journal.Ok.promise (h : j.Ok) (a : Asker) (ha : j.askerOk a = true) : (j.promise a).Ok := by
  cases a with
  | session p => exact h.frame rfl rfl rfl (Nat.le_refl _) rfl rfl rfl
  | custody n =>
    refine ⟨h.next, h.released, h.program, ?_, h.warnLevel, h.programFailures, h.eraseFailures⟩
    have hn : j.custodyOut + n ≤ 7 := by simpa [Journal.askerOk] using ha
    exact hn

theorem Journal.askerOk_of_acceptable {b : Bool} {a : Asker} (h : j.acceptable b a = true) : j.askerOk a = true := by
  simp only [Journal.acceptable, Bool.and_eq_true] at h; exact h.2

theorem Follows.askCustody (h : Follows s₀ s) (n : Nat) : Follows s₀ (s.askCustody n).2 := by
  unfold State.askCustody
  split
  · rename_i ha
    exact (h.updJournal _ fun k => k.promise _ (Journal.askerOk_of_acceptable ha)).judgeHigh
  · exact h.noteRefusal

theorem Follows.askSession (h : Follows s₀ s) (p : PortNo) : Follows s₀ (s.askSession p).2 := by
  unfold State.askSession
  split
  · rename_i ha
    exact (h.updJournal _ fun k => k.promise _ (Journal.askerOk_of_acceptable ha)).judgeHigh
  · split
    · dsimp only
      refine Follows.frameJournal ?_ _
      split
      · exact h
      · exact h.noteRefusal
    · exact h.noteRefusal

theorem Follows.serveWaiter (h : Follows s₀ s) (p : PortNo) : Follows s₀ (s.serveWaiter p) := by
  unfold State.serveWaiter
  split
  · rename_i ha
    have u : Follows s₀ (s.updJournal fun j => { j.promise (.session p) with waiters := j.waiters.erase p }) :=
      h.frameJournal _
    exact (u.judgeHigh.updSession p _).tell _
  · exact h

theorem Follows.serveWaiters (h : Follows s₀ s) : Follows s₀ s.serveWaiters :=
  h.foldl _ (fun s p => (Follows.refl s).serveWaiter p) _

theorem Follows.giveBack (h : Follows s₀ s) (a : Asker) : Follows s₀ (s.giveBack a) := by
  unfold State.giveBack
  refine (Follows.judgeHigh (h.updJournal _ fun k => ?_)).serveWaiters
  cases a <;> exact k.frame rfl rfl rfl (by simp) rfl rfl rfl

theorem Follows.leaveWaiters (h : Follows s₀ s) (p : PortNo) : Follows s₀ (s.leaveWaiters p) :=
  h.frameJournal _

/-! ## The write queue -/

theorem Follows.enqueue (h : Follows s₀ s) (e : QueueEntry) : Follows s₀ (s.enqueue e) :=
  h.frameJournal _

theorem Follows.queueCustody (h : Follows s₀ s) (t : CustodyType) (pair : Nat × Nat) (f : List Byte) :
    Follows s₀ (s.queueCustody t pair f) := h.enqueue _

theorem Follows.attach (h : Follows s₀ s) (p : PortNo) (t : Settlement) :
    Follows s₀ (s.updJournal (·.attach p t)) :=
  h.frameJournal _

theorem Follows.updSettle (h : Follows s₀ s) (p : PortNo) (f : SettlementEntry → SettlementEntry) :
    Follows s₀ (s.updJournal (·.updSettle p f)) :=
  h.frameJournal _

theorem Follows.popHead (h : Follows s₀ s) : Follows s₀ (s.updJournal Journal.popHead) :=
  h.updJournal _ fun k => k.popHead

theorem Follows.queueZeroized (h : Follows s₀ s) : Follows s₀ s.queueZeroized := by
  unfold State.queueZeroized
  extract_lets started waiting isZ bump
  split
  · exact h
  · exact h.raiseGlobal _
  · split
    · exact h.frameJournal _
    · split
      · refine (Follows.queueCustody ?_ _ _ _).judgeHigh
        exact h.frameJournal _
      · exact h.raiseGlobal _

/-! ## Drops and FAULT -/

theorem Follows.reportDropped (h : Follows s₀ s) (e : QueueEntry) : Follows s₀ (s.reportDropped e) := by
  unfold State.reportDropped; split
  · exact h.updSession _ _
  · exact h

theorem Follows.endWaiters (h : Follows s₀ s) : Follows s₀ s.endWaiters := by
  unfold State.endWaiters
  refine Follows.frameJournal ?_ _
  exact h.foldl _ (fun s p => (Follows.refl s).tell _) _

theorem Follows.dropHead (h : Follows s₀ s) (e : QueueEntry) : Follows s₀ (s.dropHead e) := by
  unfold State.dropHead
  refine (((Follows.reportDropped (h.updJournal _ fun k => ?_) e).judgeHigh).raiseGlobal _).endWaiters
  exact (k.endPromise e).popHead.frame rfl rfl rfl (Nat.le_refl _) rfl rfl rfl

/-! ## The flash's next operation -/

theorem Follows.readNextSeq (h : Follows s₀ s) : Follows s₀ s.readNextSeq.2 := by
  unfold State.readNextSeq
  dsimp only
  refine (h.countCorrected _).updJournal _ fun k => ?_
  exact ⟨k.next, k.released, k.program, k.custodyOut, k.warnLevel, k.programFailures, k.eraseFailures⟩

theorem Follows.readReleased (h : Follows s₀ s) : Follows s₀ s.readReleased.2 := by
  unfold State.readReleased
  dsimp only
  refine (h.countCorrected _).updJournal _ fun k => ?_
  exact ⟨k.next, k.released, k.program, k.custodyOut, k.warnLevel, k.programFailures, k.eraseFailures⟩

theorem Follows.startErase (h : Follows s₀ s) : Follows s₀ s.startErase := by
  unfold State.startErase
  split
  · exact h
  · refine h.updJournal _ fun k => ?_
    refine ⟨k.next, k.released, ?_, k.custodyOut, k.warnLevel, k.programFailures, k.eraseFailures⟩
    intro _ _ e
    cases e

theorem Follows.startAppend (h : Follows s₀ s) (e : QueueEntry) : Follows s₀ (s.startAppend e) := by
  unfold State.startAppend
  split
  · exact h.dropHead e
  · have r := h.readNextSeq
    simp only
    split
    · exact r.frameJournal _
    · split
      · exact r.dropHead e
      · split
        · exact r.updJournal _ fun k => k.withFlash _ fun _ _ x => by cases x; rfl
        · split
          · exact r.dropHead e
          · exact r.startErase

theorem Follows.flashNext? (h : Follows s₀ s) {t : State} (e : s.flashNext? = some t) : Follows s₀ t := by
  unfold State.flashNext? at e
  split at e
  · cases e
  · split at e
    · split at e
      · cases e; exact h.updJournal _ fun k => k.withFlash _ fun _ _ x => by cases x
      · cases e; exact h.popHead.serveWaiters
    · cases e; exact h.startAppend _
    · split at e
      · cases e
      · cases e; exact h.startErase

/-! ## The end of an append -/

theorem Follows.openFailed (h : Follows s₀ s) (i : Fin 64) (l : List Byte) : Follows s₀ (s.openFailed i l) :=
  Follows.judgeHigh (h.updJournal _ fun k => (k.updSegment _ _).countProgramFailure _)

theorem State.openFailed_keeps (s : State) (i : Fin 64) (l : List Byte) :
    (s.openFailed i l).journal.nextSeq = s.journal.nextSeq := by
  simp [State.openFailed, Journal.updSegment]

/-- Finding a place follows, and leaves next sequence. -/
theorem Follows.findPlace (seq fuel : Nat) (opens : List ReadBack) (h : Follows s₀ s) :
    Follows s₀ (s.findPlace seq fuel opens).1 ∧ (s.findPlace seq fuel opens).1.journal.nextSeq = s.journal.nextSeq := by
  induction fuel generalizing s opens with
  | zero => exact ⟨h, rfl⟩
  | succ n ih =>
    unfold State.findPlace
    split
    · exact ⟨h, rfl⟩
    · split
      · exact ⟨h, rfl⟩
      · split
        · refine ⟨?_, rfl⟩
          dsimp only
          exact h.frameJournal _
        · split
          · exact ⟨(h.frameJournal _).judgeHigh, State.judgeHigh_nextSeq _⟩
          · obtain ⟨a, b⟩ := ih (opens.drop 1) (h.openFailed _ _)
            exact ⟨a, b.trans (s.openFailed_keeps _ _)⟩

theorem Journal.Ok.fillPlace {j : Journal} (k : j.Ok) (i : Fin 64) (b : List Byte) (m : Bool) : (j.fillPlace i b m).Ok := by
  unfold Journal.fillPlace
  simp only
  split
  · exact k.updSegment _ _
  · exact ((k.updSegment _ _).updSegment _ _).judgeReclaim

/-- A place used changes the segments and the erase list alone. -/
theorem Journal.fillPlace_keeps (j : Journal) (i : Fin 64) (b : List Byte) (m : Bool) :
    (j.fillPlace i b m).nextSeq = j.nextSeq ∧ (j.fillPlace i b m).flash = j.flash := by
  unfold Journal.fillPlace
  simp only
  split <;> exact ⟨rfl, rfl⟩

theorem Follows.usePlace (h : Follows s₀ s) (i : Fin 64) (b : List Byte) (f : Bool) : Follows s₀ (s.usePlace i b f) :=
  h.updJournal _ fun k => k.fillPlace _ _ _

@[simp] theorem State.usePlace_nextSeq (s : State) (i : Fin 64) (b : List Byte) (f : Bool) :
    (s.usePlace i b f).journal.nextSeq = s.journal.nextSeq := (s.journal.fillPlace_keeps i b _).1

theorem Follows.appendDone (h : Follows s₀ s) (e : QueueEntry) (seq : Nat) (i : Fin 64) (n : Nat) (b : List Byte)
    (f : Bool) (hseq : s₀.Ok → seq = s.journal.nextSeq.value) : Follows s₀ (s.appendDone e seq i n b f) := by
  have a : Follows s₀ (s.updJournal fun j => { (j.endPromise e) with headFailed := false, flash := .idle }) :=
    h.updJournal _ fun k =>
      let q := (k.endPromise e).idle
      ⟨q.next, q.released, q.program, q.custodyOut, q.warnLevel, q.programFailures, q.eraseFailures⟩
  unfold State.appendDone
  simp only
  split
  · split
    · exact a.usePlace i b f
    · exact (a.usePlace i b f).popHead
  · have u : Follows s₀ ((s.updJournal fun j => { (j.endPromise e) with headFailed := false, flash := .idle }).updJournal
        fun j => { j with nextSeq := ⟨seq + 1, GroupMem.clean⟩ }) := by
      refine ⟨h.queue, h.pins, h.link, h.grows, h.owed, h.settings, fun k₀ => { h.ok k₀ with journal := ?_ }⟩
      have p := (h.ok k₀).journal.endPromise e
      have r := p.released
      refine ⟨Nat.le_add_left _ _, ?_, (fun _ _ x => by cases x), p.custodyOut, p.warnLevel, p.programFailures,
        p.eraseFailures⟩
      simp only [Journal.newest, Journal.endPromise_nextSeq] at r
      simp only [State.updJournal_journal, Journal.newest, Nat.add_sub_cancel]
      have := hseq k₀
      omega
    have v := u.usePlace i b f
    split
    · split
      · exact v
      · exact v.updJournal _ fun k => k.withFlash _ fun _ _ x => by cases x
    · exact ((v.popHead.updSession _ _).tell _).serveWaiters
    · exact v.popHead

theorem Follows.voidPlace (h : Follows s₀ s) (i : Fin 64) (l : List Byte) (f : Bool) : Follows s₀ (s.voidPlace i l f) := by
  unfold State.voidPlace
  split
  · split
    · exact h
    · exact (h.usePlace i l false).judgeHigh
  · exact Follows.judgeHigh ((h.usePlace i _ f).updJournal _ fun k => k.countProgramFailure _)

theorem State.voidPlace_nextSeq (s : State) (i : Fin 64) (l : List Byte) (f : Bool) :
    (s.voidPlace i l f).journal.nextSeq = s.journal.nextSeq := by
  unfold State.voidPlace
  split
  · split <;> simp
  · simp

theorem Follows.appendNoPlace (h : Follows s₀ s) (e : QueueEntry) (b : Bool) : Follows s₀ (s.appendNoPlace e b) := by
  have u : Follows s₀ (s.updJournal fun j => { j with flash := .idle }) := h.updJournal _ fun k => k.idle
  unfold State.appendNoPlace
  simp only
  split
  · exact u
  · split
    · exact u.dropHead e
    · exact u.frameJournal _

theorem Follows.lastAttempt (h : Follows s₀ s) (e : QueueEntry) (seq : Nat) (b : List Byte) (o : List ReadBack)
    (r : ReadBack) (f : Bool) (hseq : s₀.Ok → seq = s.journal.nextSeq.value) :
    Follows s₀ (s.lastAttempt e seq b o r f) := by
  have p := Follows.findPlace seq 65 o h
  unfold State.lastAttempt
  split
  · rename_i hp; rw [hp] at p
    exact p.1.appendNoPlace e true
  · rename_i hp; rw [hp] at p
    simp only
    split
    · exact p.1.appendDone _ _ _ _ _ _ fun k => (hseq k).trans (by rw [p.2])
    · split
      · exact (p.1.voidPlace _ _ _).updJournal _ fun k => k.idle
      · exact ((p.1.voidPlace _ _ _).updJournal _ fun k => k.idle).dropHead e

theorem Follows.appendEnd (h : Follows s₀ s) (e : QueueEntry) (seq : Nat) (b : List Byte) (r : AppendResult)
    (hseq : s₀.Ok → seq = s.journal.nextSeq.value) : Follows s₀ (s.appendEnd e seq b r) := by
  have p := Follows.findPlace seq 65 r.opens h
  unfold State.appendEnd
  split
  · exact h.lastAttempt _ _ _ _ _ _ hseq
  · split
    · rename_i hp; rw [hp] at p
      exact p.1.appendNoPlace e false
    · rename_i hp; rw [hp] at p
      simp only
      split
      · exact p.1.appendDone _ _ _ _ _ _ fun k => (hseq k).trans (by rw [p.2])
      · have v := p.1.voidPlace
        split
        · exact (v _ _ _).updJournal (fun j => { j with flash := .idle }) fun k => k.idle
        · exact (v _ _ _).lastAttempt _ _ _ _ _ _ fun k => (hseq k).trans (by rw [State.voidPlace_nextSeq, p.2])

/-! ## The ends of a settlement's program and of an erase -/

theorem Follows.partProgrammed (h : Follows s₀ s) (ref : RecordRef) (b : List Byte) (r : ReadBack) :
    Follows s₀ (s.partProgrammed ref b r) := by
  unfold State.partProgrammed
  split
  · exact h.updJournal _ fun k => k.writePart _ _ _
  · exact Follows.raiseGlobal (h.updJournal _ fun k => (k.writePart _ _ _).countProgramFailure _) _

theorem Follows.eraseDone (h : Follows s₀ s) (i : Fin 64) (r : EraseResult) : Follows s₀ (s.eraseDone i r) := by
  have u : Follows s₀ (s.updJournal fun j => { j with flash := .idle }) := h.updJournal _ fun k => k.idle
  unfold State.eraseDone
  simp only
  split
  · exact (Follows.judgeHigh (u.updJournal _ fun k => k.updSegment _ _)).serveWaiters
  · split
    · exact u.updJournal _ fun k => k.updSegment _ _
    · exact u.updJournal _ fun k => (k.updSegment _ _).countEraseFailure _

end Sys2Proof.Machine
end

