-- ==== Sys2Proof/Laws/Custody.lean ====
section
/-! SUPPORT. What each operation of the engine, the Custody Unit and the Key Store can do: it follows in the sense
of `Follows`. -/

namespace Sys2Proof.Machine

variable {s₀ s : State}

/-! ## The engine (R52 to R56) -/

@[simp] theorem Engine.submit_completed (e : Engine) (j : Job) : (e.submit j).completed = e.completed := by
  unfold Engine.submit; split <;> rfl
@[simp] theorem Engine.promote_completed (e : Engine) (r : Fin 17) : (e.promote r).completed = e.completed := by
  unfold Engine.promote; split <;> (try split) <;> rfl

/-- A job kept at a requester after a promotion was kept there before. -/
theorem Engine.promote_kept {e : Engine} {r q : Fin 17} {j : Job} (h : (e.promote r).kept.look q = some j) :
    e.kept.look q = some j := by
  unfold Engine.promote at h
  split at h
  · split at h
    · exact h
    · simp only [Bank.look_put] at h
      split at h
      · cases h
      · exact h
  · exact h

/-- A job kept at a requester after a withdrawal was kept there before. -/
theorem Engine.withdraw_kept {e : Engine} {r q : Fin 17} {w : Job → Bool} {j : Job}
    (h : (e.withdraw r w).kept.look q = some j) : e.kept.look q = some j := by
  have k := Engine.promote_kept h
  simp only [Engine.markIf, Bank.look_put] at k
  split at k
  · subst_vars; exact (Option.filter_eq_some_iff.mp k).1
  · exact k

/-- A SLOT.VERIFY job is one of requester 16. -/
theorem Job.isVerify_requester {j : Job} (h : j.isVerify = true) : j.requester = custodyRequester := by
  simp only [Job.isVerify, Bool.and_eq_true, beq_iff_eq] at h
  exact h.1

theorem Engine.Ok.promote {e : Engine} (h : e.Ok) (r : Fin 17) : (e.promote r).Ok :=
  ⟨by simpa using h.completed, fun j x => h.kept j (Engine.promote_kept x)⟩
theorem Engine.Ok.withdraw {e : Engine} (h : e.Ok) (r : Fin 17) (w : Job → Bool) : (e.withdraw r w).Ok :=
  ⟨by simpa [Engine.withdraw, Engine.markIf] using h.completed, fun j x => h.kept j (Engine.withdraw_kept x)⟩
theorem Engine.Ok.submit {e : Engine} (h : e.Ok) {j : Job} (hj : j.isVerify = true → e.busy j.requester = false) :
    (e.submit j).Ok := by
  refine ⟨by simpa using h.completed, fun k x => ?_⟩
  unfold Engine.submit at x
  split at x
  · rename_i b
    simp only [Bank.look_put] at x
    split at x
    · cases x
      cases v : j.isVerify
      · rfl
      · rw [hj v] at b; cases b
    · exact h.kept k x
  · exact h.kept k x

theorem Follows.submit (h : Follows s₀ s) (j : Job) (hj : j.isVerify = true → s.engine.busy j.requester = false) :
    Follows s₀ (s.updEngine (·.submit j)) := h.updEngine _ fun k => k.submit hj
theorem Follows.withdraw (h : Follows s₀ s) (r : Fin 17) (w : Job → Bool) : Follows s₀ (s.updEngine (·.withdraw r w)) :=
  h.updEngine _ fun k => k.withdraw r w
theorem Follows.promote (h : Follows s₀ s) (r : Fin 17) : Follows s₀ (s.updEngine (·.promote r)) :=
  h.updEngine _ fun k => k.promote r
theorem Follows.grant (h : Follows s₀ s) (j : Job) : Follows s₀ (s.updEngine (·.grant j)) :=
  h.updEngine _ fun k => ⟨k.completed, k.kept⟩
theorem Follows.finish (h : Follows s₀ s) (f : InFlight) : Follows s₀ (s.updEngine (·.finish f)) :=
  h.updEngine _ fun k => by
    unfold Engine.finish
    refine Engine.Ok.promote ?_ _
    refine ⟨?_, k.kept⟩
    dsimp only
    split
    · exact saturate_le _ _
    · exact k.completed

theorem Follows.readSlotKey (h : Follows s₀ s) (i : SlotNo) : Follows s₀ (s.readSlotKey i).2 := by
  unfold State.readSlotKey
  exact h.readSlotWords i _

theorem Follows.gatherKey (h : Follows s₀ s) (j : Job) : Follows s₀ (s.gatherKey j).2 := by
  unfold State.gatherKey
  split
  · exact h.readSlotKey _
  · exact h
  · exact h
  · exact h

theorem Follows.launch (h : Follows s₀ s) (j : Job) (k : KeyKind) (b : List Byte) : Follows s₀ (s.launch j k b) := by
  unfold State.launch
  exact h.updEngine _ fun k => ⟨k.completed, k.kept⟩

/-! ## RESULT frames, presences, the window -/

theorem Follows.sendResult (h : Follows s₀ s) (l : Line) (b : Byte) (w : Option PadReason) :
    Follows s₀ (s.sendResult l b w) := h.updLine l _ fun _ => rfl

/-- A change of the Custody Unit that leaves the lines, and closes the window or leaves it, and takes components
out of the intake or leaves it, keeps it lawful. -/
theorem CustodyUnit.Ok.of {c d : CustodyUnit} (h : c.Ok) (ha : d.lineA = c.lineA) (hb : d.lineB = c.lineB)
    (hw : d.window = c.window ∨ d.window = none) (hi : d.intake.Sublist c.intake) : d.Ok := by
  have e : ∀ l, d.presentOn l = c.presentOn l := by
    intro l; cases l <;> simp [CustodyUnit.presentOn, CustodyUnit.line, ha, hb]
  refine ⟨fun l n x => h.number l n (e l ▸ x), fun n x => by rw [e] at x ⊢; exact h.different n x, fun w x => ?_,
    (hi.map _).nodup h.intake⟩
  rw [e, e]
  rcases hw with hw | hw
  · exact h.window w (hw ▸ x)
  · rw [hw] at x; cases x

theorem Follows.closeWindow (h : Follows s₀ s) (b : Bool) : Follows s₀ (s.closeWindow b) := by
  unfold State.closeWindow
  split
  · exact (h.updCustody _ fun k => k.of rfl rfl (.inr rfl) (List.Sublist.refl _)).raiseGlobal _
  · exact h

/-- A presence ends: its line is empty and the window CLOSED (R30, R33). -/
theorem State.endPresence_custody (s : State) (l : Line) :
    (s.endPresence l).custody.presentOn l = none
      ∧ (∀ m, m ≠ l → (s.endPresence l).custody.presentOn m = s.custody.presentOn m)
      ∧ ((s.custody.presentOn l).isSome → (s.endPresence l).custody.window = none)
      ∧ ((s.endPresence l).custody.window = s.custody.window ∨ (s.endPresence l).custody.window = none)
      ∧ (s.endPresence l).custody.intake = s.custody.intake := by
  unfold State.endPresence State.present?
  split
  · rename_i n hn
    unfold State.closeWindow State.windowOpen
    refine ⟨?_, ?_, ?_, ?_, ?_⟩
    · split <;> cases l <;> rfl
    · intro m hm; split <;> cases l <;> cases m <;> first | rfl | exact absurd rfl hm
    · intro _; split
      · rfl
      · rename_i hw; simpa using hw
    · split
      · exact .inr rfl
      · left; cases l <;> rfl
    · split <;> cases l <;> rfl
  · rename_i hn
    refine ⟨hn, fun _ _ => rfl, fun x => ?_, .inl rfl, rfl⟩
    have : s.custody.presentOn l = none := hn
    rw [this] at x; cases x

theorem Follows.custodyIs (h : Follows s₀ s) (c : CustodyUnit) (hc : s.custody.Ok → c.Ok) :
    Follows s₀ { s with custody := c } :=
  h.updCustody (fun _ => c) hc

/-- A Custody Unit one of whose presences has ended, with the window CLOSED, is lawful. -/
theorem CustodyUnit.Ok.leave {c d : CustodyUnit} (h : c.Ok) (l : Line) (hl : d.presentOn l = none)
    (hm : ∀ m, m ≠ l → d.presentOn m = c.presentOn m) (hw : d.window = none) (hi : d.intake = c.intake) : d.Ok := by
  have e : ∀ m n, d.presentOn m = some n → c.presentOn m = some n := fun m n x => by
    by_cases q : m = l
    · subst q; rw [hl] at x; cases x
    · rw [← hm m q]; exact x
  exact ⟨fun m n x => h.number m n (e m n x), fun n x y => h.different n (e _ _ x) (e _ _ y),
    fun w x => (by rw [hw] at x; cases x), (by rw [hi]; exact h.intake)⟩

theorem Follows.endPresence (h : Follows s₀ s) (l : Line) : Follows s₀ (s.endPresence l) := by
  obtain ⟨c1, c2, c3, -, c5⟩ := s.endPresence_custody l
  unfold State.endPresence at c1 c2 c3 c5 ⊢
  split
  · rename_i n hn
    rw [hn] at c1 c2 c3 c5
    unfold State.closeWindow at c1 c2 c3 c5 ⊢
    have hs : (s.custody.presentOn l).isSome := by
      have : s.custody.presentOn l = some n := hn
      simp [this]
    split
    · rename_i hw
      simp only [hw, if_true] at c1 c2 c3 c5
      exact (h.custodyIs _ fun k => k.leave l c1 c2 (c3 hs) c5).raiseGlobal _
    · rename_i hw
      simp only [hw] at c1 c2 c3 c5
      exact h.custodyIs _ fun k => k.leave l c1 c2 (c3 hs) c5
  · exact h

/-- The Journal's answer to a custody request leaves the Custody Unit. -/
theorem State.askCustody_custody (s : State) (n : Nat) : (s.askCustody n).2.custody = s.custody := by
  unfold State.askCustody State.noteRefusal State.judgeHigh State.raiseWhen
  split
  · simp only; split <;> (try split) <;> rfl
  · simp only; split <;> rfl

theorem Follows.openWindow (h : Follows s₀ s) (a b : Nat) (hab : s.custody.presentOn .a = some a ∧ s.custody.presentOn .b = some b) :
    Follows s₀ (s.openWindow a b) := by
  unfold State.openWindow
  refine (Follows.queueCustody (h.updCustody _ fun k => ?_) _ _ _).raiseGlobal _
  exact ⟨k.number, k.different, fun w x => by cases x; exact hab, k.intake⟩

theorem Follows.considerWindow (h : Follows s₀ s) (b : Bool) : Follows s₀ (s.considerWindow b) := by
  unfold State.considerWindow
  split
  · rename_i n m hw ha hb
    split
    · have q := h.askCustody 1
      have qc := s.askCustody_custody 1
      split
      · rename_i e
        rw [e] at q qc
        refine q.openWindow n m ?_
        rw [show _ = _ from qc]
        exact ⟨ha, hb⟩
      · rename_i e
        exact q.pair e
    · exact h
  · exact h

/-! ## Assemblies (R2 to R4, R37 to R42) -/

theorem Follows.abandonSlot (h : Follows s₀ s) (i : SlotNo) : Follows s₀ (s.abandonSlot i) := by
  unfold State.abandonSlot
  simp only
  split
  · exact (h.readSlotWords i []).updSlot i _ fun _ => Slot.Ok.noRange rfl
  · exact h.readSlotWords i []

theorem Follows.assemblyOver (h : Follows s₀ s) (i : SlotNo) (w : AssemblyEnd) : Follows s₀ (s.assemblyOver i w) := by
  unfold State.assemblyOver
  exact h.updCustody _ fun k => k.of rfl rfl (.inl rfl) (List.Sublist.refl _)

theorem Follows.answerIntake (h : Follows s₀ s) (w : PadReason) : Follows s₀ (s.answerIntake w) := by
  unfold State.answerIntake
  refine Follows.foldl _ (fun s e => (Follows.refl s).sendResult _ _ _) _ ?_
  exact h.updCustody _ fun k => k.of rfl rfl (.inl rfl) (List.nil_sublist _)

theorem Follows.failAssembly (h : Follows s₀ s) (w : AssemblyEnd) : Follows s₀ (s.failAssembly w) := by
  unfold State.failAssembly
  split
  · exact h
  · exact Follows.answerIntake (Follows.assemblyOver (Follows.raiseGlobal (Follows.queueCustody
      ((h.abandonSlot _).withdraw _ _) _ _ _) _) _ _) _

theorem Follows.readSlot (h : Follows s₀ s) (i : SlotNo) (gs : List SlotGroup) : Follows s₀ (s.readSlot i gs) := by
  unfold State.readSlot
  simp only
  split
  · exact (h.readSlotWords i gs).failAssembly _
  · exact h.readSlotWords i gs

theorem Follows.takeUp? (h : Follows s₀ s) {t : State} (e : s.takeUp? = some t) : Follows s₀ t := by
  unfold State.takeUp? at e
  split at e
  · cases e
  · rename_i c rest hc
    split at e
    · cases e
    · split at e
      · cases e
        exact (h.updCustody _ fun k => k.of rfl rfl (.inl rfl) (by rw [hc]; exact List.sublist_cons_self _ _)).sendResult _ _ _
      · cases e
        exact (h.updCustody _ fun k => k.of rfl rfl (.inl rfl) (List.Sublist.refl _)).submit _ nofun

theorem Follows.acceptPart (h : Follows s₀ s) (a : Assembly) (e : IntakeEntry) (c : List Byte) :
    Follows s₀ (s.acceptPart a e c) := by
  have u : ∀ x, Follows s₀ (s.updCustody fun c => { c with
      assembly := some x, intake := c.intake.drop 1, underCheck := false }) := fun x =>
    h.updCustody _ fun k => k.of rfl rfl (.inl rfl) (List.drop_sublist _ _)
  unfold State.acceptPart
  simp only
  split
  · exact ((u _).sendResult _ _ _).submit _ nofun
  · exact (u _).sendResult _ _ _

theorem Follows.refusePart (h : Follows s₀ s) (a : Assembly) (e : IntakeEntry) : Follows s₀ (s.refusePart a e) := by
  have u : ∀ x, Follows s₀ (s.updCustody fun c => { c with
      assembly := some x, intake := c.intake.drop 1, underCheck := false }) := fun x =>
    h.updCustody _ fun k => k.of rfl rfl (.inl rfl) (List.drop_sublist _ _)
  unfold State.refusePart
  simp only
  split
  · exact ((u _).sendResult _ _ _).failAssembly _
  · split
    · exact ((u _).sendResult _ _ _).failAssembly _
    · exact (u _).sendResult _ _ _

theorem Follows.componentChecked (h : Follows s₀ s) (c : List Byte) : Follows s₀ (s.componentChecked c) := by
  unfold State.componentChecked
  split
  · split
    · exact h.acceptPart _ _ _
    · exact h.refusePart _ _
  · exact h

theorem Follows.combinedChecked (h : Follows s₀ s) (c : List Byte) : Follows s₀ (s.combinedChecked c) := by
  unfold State.combinedChecked
  split
  · exact h
  · split
    · exact h.failAssembly _
    · have r := fun i => h.readSlotWords i []
      simp only
      split
      · exact Follows.assemblyOver (Follows.raiseGlobal (Follows.queueCustody ((r _).updSlot _ _ fun _ =>
          Slot.Ok.noRange rfl) _ _ _) _) _ _
      · exact (r _).failAssembly _
      · exact (r _).failAssembly _

theorem Follows.custodyJobDone (h : Follows s₀ s) (k : KeySource) (c : List Byte) : Follows s₀ (s.custodyJobDone k c) := by
  unfold State.custodyJobDone
  split
  · exact h.combinedChecked c
  · exact h.componentChecked c

/-! ## Holds and device numbers (R10 to R15) -/

theorem Follows.takeHold (h : Follows s₀ s) (p : PortNo) (i : SlotNo) : Follows s₀ (s.takeHold p i).2 := by
  unfold State.takeHold
  split
  · exact h
  · split
    · exact h
    · simp only
      split
      · exact ((h.readSlot i _).updSlot i _ fun k => ⟨k.range, k.root, k.state⟩).updSession p _
      · exact h.readSlot i _

theorem Follows.dropHold (h : Follows s₀ s) (p : PortNo) (i : SlotNo) : Follows s₀ (State.dropHold p s i) := by
  unfold State.dropHold
  exact ((h.readSlot i _).updSlot i _ fun k => ⟨k.range, k.root, k.state⟩).updSession p _

theorem Follows.dropHolds (h : Follows s₀ s) (p : PortNo) : Follows s₀ (s.dropHolds p) :=
  h.foldl _ (fun s i => (Follows.refl s).dropHold p i) _

/-- A range record advanced while a number remains is lawful (R14). -/
theorem RangeRecord.Ok.advance {r : RangeRecord} (h : r.Ok) (hr : r.remaining ≠ 0) : r.advance.Ok := by
  obtain ⟨h1, h2⟩ := h
  unfold RangeRecord.remaining at hr
  constructor
  · exact Nat.le_succ_of_le h1
  · show r.next + 1 ≤ r.last + 1
    omega

theorem Follows.allocate (h : Follows s₀ s) (i : SlotNo) : Follows s₀ (s.allocate i).2 := by
  unfold State.allocate
  split
  · exact h
  · split
    · exact h
    · have r := h.readSlot i [.range]
      simp only
      split
      · exact r
      · split
        · exact r
        · rename_i q hq
          split
          · exact r
          · rename_i hr
            refine ((r.updSlot i _ fun k => ⟨?_, fun _ => k.root (by simp [hq]), fun _ => k.state (by simp [hq])⟩).raiseWhen
              _ _).raiseWhen _ _
            intro x e
            cases e
            exact (k.range q hq).advance hr

end Sys2Proof.Machine
end

