-- ==== Sys2Proof/Laws/Orders.lean ====
section
/-! SUPPORT. What each operation of the Order Table can do (R99 to R101, R111 to R118): it follows in the sense of
`Follows`. -/

namespace Sys2Proof.Machine

variable {s₀ s : State} {o : Order}

/-! ## Lawful orders -/

/-- A change of the counts and the unit holders alone that leaves them balanced. -/
theorem Order.Ok.counts (h : o.Ok) {x : Order} (h1 : x.number = o.number) (h2 : x.state = o.state) (h3 : x.hold = o.hold)
    (h4 : x.started = o.started) (h5 : x.spoilLimit = o.spoilLimit) (h6 : o.Balanced → x.Balanced) : x.Ok :=
  ⟨by rw [h2, h3]; exact h.hold, by rw [h2, h4]; exact h.queued, by rw [h1]; exact h.number, by rw [h5]; exact h.spoilLimit,
    h6 h.balanced⟩

/-- A unit handed out of those that remain keeps the counts balanced (R111). -/
theorem Order.Balanced.handUnit (h : o.Balanced) (p : PortNo) (k : 0 < o.remaining) : (o.handUnit p).Balanced := by
  have a := h.sum; have b := h.holders
  constructor <;> simp only [Order.handUnit, List.length_append, List.length_singleton] <;> omega

/-- A unit that a port holds leaves the units in progress and counts elsewhere (R115 to R117). -/
theorem Order.Balanced.dropUnit (h : o.Balanced) {q : PortNo} (k : q ∈ o.unitHolders) {r c a z : Nat}
    (e : r + c + a = o.remaining + o.completed + o.abandoned + 1) :
    { o.dropUnit q with remaining := r, completed := c, abandoned := a, spoiled := z : Order }.Balanced := by
  have u := h.sum; have v := h.holders; have l := List.length_pos_of_mem k
  constructor <;> simp only [Order.dropUnit, List.length_erase_of_mem k] <;> omega

theorem Order.Ok.handUnit (h : o.Ok) (p : PortNo) (k : 0 < o.remaining) : (o.handUnit p).Ok := by
  have hh := h.hold
  refine ⟨?_, ?_, h.number, h.spoilLimit, h.balanced.handUnit p k⟩
  · simp only [Order.handUnit]
    split
    · simp_all
    · exact hh
  · simp only [Order.handUnit]
    split <;> simp_all

theorem Order.Ok.finished (h : o.Ok) : o.finished.Ok := by
  refine ⟨?_, ?_, h.number, h.spoilLimit, ⟨h.balanced.sum, h.balanced.holders⟩⟩ <;> simp only [Order.finished] <;> split <;> simp

theorem Order.Ok.hold_ (h : o.Ok) (why : HoldReason) : { o with state := .held, hold := some why : Order }.Ok :=
  ⟨by simp, by simp, h.number, h.spoilLimit, ⟨h.balanced.sum, h.balanced.holders⟩⟩

theorem Order.Ok.takeBack (h : o.Ok) {q : PortNo} (k : q ∈ o.unitHolders) : (o.takeBack q).Ok := by
  unfold Order.takeBack; split <;> exact h.counts rfl rfl rfl rfl rfl fun b => b.dropUnit k (by simp only [Order.dropUnit]; omega)

/-- The order that hands out a unit is in the table and has units remaining (R111). -/
theorem State.oldestEligible?_spec {p : Fin 16} (h : s.oldestEligible? p = some o) :
    o ∈ s.orders.orders ∧ o.eligible p = true := by
  have f : ∀ (l : List Order) (b : Option Order), l.foldl olderOrder b = some o → b = some o ∨ o ∈ l := by
    intro l
    induction l with
    | nil => exact fun b e => .inl e
    | cons x xs ih =>
      intro b e
      rcases ih _ e with k | k
      · unfold olderOrder at k
        split at k
        · cases k; exact .inr List.mem_cons_self
        · split at k <;> cases k
          · exact .inr List.mem_cons_self
          · exact .inl rfl
      · exact .inr (List.mem_cons_of_mem _ k)
  rcases f _ _ h with k | k
  · cases k
  · exact List.mem_filter.mp k

theorem Order.eligible_remaining {p : Fin 16} (h : o.eligible p = true) : 0 < o.remaining := by
  simp only [Order.eligible, Bool.and_eq_true, decide_eq_true_eq] at h; exact h.2

/-! ## Operations -/

/-- A unit handed to a port by an order of the table with units remaining. -/
theorem Follows.takeUnit (h : Follows s₀ s) (ho : o ∈ s.orders.orders) (k : 0 < o.remaining) (q : PortNo) :
    Follows s₀ (s.takeUnit o.number q) :=
  ((h.updOrderAt ho (·.handUnit q) fun x => x.handUnit q k).updSession q _).tell _

theorem Follows.serveOne (h : Follows s₀ s) (p : Fin 16) (q : PortNo) : Follows s₀ (State.serveOne p s q) := by
  unfold State.serveOne
  split
  · rename_i o e
    obtain ⟨m, k⟩ := State.oldestEligible?_spec e
    exact (h.setWaiting _ _).takeUnit (s := s.setWaiting _ _) m (Order.eligible_remaining k) q
  · exact h

theorem Follows.serveProfile (h : Follows s₀ s) (p : Fin 16) : Follows s₀ (s.serveProfile p) :=
  h.foldl _ (fun s q => (Follows.refl s).serveOne p q) _

theorem Follows.testFinished (h : Follows s₀ s) (n : Nat) : Follows s₀ (s.testFinished n) := by
  unfold State.testFinished
  split
  · split
    · exact (h.updOrder n Order.finished fun _ k => k.finished).raiseGlobal _
    · exact h
  · exact h

theorem Follows.callHold (h : Follows s₀ s) (n : Nat) (why : HoldReason) : Follows s₀ (s.callHold n why) := by
  unfold State.callHold
  split
  · split
    · exact Follows.raiseGlobal (h.updOrder n _ fun _ k => k.hold_ why) _
    · exact h
  · exact h

theorem Follows.callHold? (h : Follows s₀ s) (n : Nat) (why : Option HoldReason) : Follows s₀ (s.callHold? n why) := by
  unfold State.callHold?
  split
  · exact h.callHold _ _
  · exact h

theorem Follows.serveOrder (h : Follows s₀ s) (n : Nat) : Follows s₀ (s.serveOrder n) := by
  unfold State.serveOrder
  split
  · split
    · exact h.serveProfile _
    · exact h
  · exact h

/-- The end of a unit follows when what it does with an order of the table that the port holds a unit of does. -/
theorem Follows.unitEnd (h : Follows s₀ s) (n : Nat) (q : PortNo) (k : Order → State)
    (hk : ∀ o ∈ s.orders.orders, o.number = n → q ∈ o.unitHolders → Follows s₀ (k o)) : Follows s₀ (s.unitEnd n q k) := by
  unfold State.unitEnd
  split
  · split
    · rename_i o e m; exact hk o (State.order?_spec e).1 (State.order?_spec e).2 m
    · exact h
  · exact h

theorem Follows.unitReturned (h : Follows s₀ s) (n : Nat) (q : PortNo) (why : Option HoldReason) :
    Follows s₀ (s.unitReturned n q why) := by
  refine h.unitEnd n q _ fun o m e k => ?_
  subst e
  have u := (((h.updOrderAt m (·.takeBack q) (fun x => x.takeBack k)
    (fun o => by unfold Order.takeBack; split <;> rfl)).callHold? o.number why).testFinished o.number)
  dsimp only
  split
  · exact u
  · exact u.serveOrder _

theorem Follows.unitCompleted (h : Follows s₀ s) (n : Nat) (q : PortNo) : Follows s₀ (s.unitCompleted n q) := by
  refine h.unitEnd n q _ fun o m e k => ?_
  subst e
  exact Follows.testFinished (h.updOrderAt m _ fun x => x.counts rfl rfl rfl rfl rfl fun b => b.dropUnit k (by simp only [Order.dropUnit]; omega)) _

theorem Follows.unitSpoiled (h : Follows s₀ s) (n : Nat) (q : PortNo) : Follows s₀ (s.unitSpoiled n q) := by
  refine h.unitEnd n q _ fun o m e k => ?_
  subst e
  dsimp only
  split
  · exact Follows.serveOrder (Follows.testFinished
      (h.updOrderAt m _ fun x => x.counts rfl rfl rfl rfl rfl fun b => b.dropUnit k (by simp only [Order.dropUnit]; omega)) _) _
  · have u := h.updOrderAt m (fun o => { o.dropUnit q with spoiled := o.spoiled + 1, abandoned := o.abandoned + 1 })
      fun x => x.counts rfl rfl rfl rfl rfl fun b => b.dropUnit k (by simp only [Order.dropUnit]; omega)
    split
    · exact u.testFinished _
    · exact (Follows.callHold u _ _).testFinished _

theorem Follows.holdZeroized (h : Follows s₀ s) : Follows s₀ s.holdZeroized := by
  unfold State.holdZeroized
  split
  · refine Follows.raiseGlobal (h.mapOrders _ (fun o => by split <;> rfl) fun o k => ?_) _
    split
    · exact k.hold_ _
    · exact k
  · exact h

end Sys2Proof.Machine
end

