-- ==== Sys2Proof/Laws/Session.lean ====
section
/-! SUPPORT. What each operation of a session and its port can do (chapters 7 and 8): it follows in the sense of
`Follows`. -/

namespace Sys2Proof.Machine

variable {s₀ s : State}

/-! ## Ports -/

theorem Follows.portFrame (h : Follows s₀ s) (p : PortNo) (f : Port → Port)
    (h1 : ∀ q, (f q).settings = q.settings := by intro _; rfl) (h2 : ∀ q, (f q).score = q.score := by intro _; rfl)
    (h3 : ∀ q, (f q).checkErrors = q.checkErrors := by intro _; rfl)
    (h4 : ∀ q, (f q).cutErrors = q.cutErrors := by intro _; rfl)
    (h5 : ∀ q, (f q).lengthErrors = q.lengthErrors := by intro _; rfl)
    (h6 : ∀ q, (f q).timeoutErrors = q.timeoutErrors := by intro _; rfl) : Follows s₀ (s.updPort p f) :=
  h.updPort p f h1 fun k => k.of_eq (h1 _) (h2 _) (h3 _) (h4 _) (h5 _) (h6 _)

theorem Follows.transmit (h : Follows s₀ s) (p : PortNo) (c : List Byte) : Follows s₀ (s.transmit p c) :=
  h.portFrame p _

theorem Follows.sendAwaiting (h : Follows s₀ s) (p : PortNo) (k : FrameType) (b : List Byte) :
    Follows s₀ (s.sendAwaiting p k b) := by
  unfold State.sendAwaiting
  split
  · exact h
  · exact (h.transmit p _).updSession p _

theorem Follows.sendLast (h : Follows s₀ s) (p : PortNo) (k : FrameType) (b : List Byte) :
    Follows s₀ (s.sendLast p k b) := by
  unfold State.sendLast
  split
  · exact h
  · exact h.transmit p _

theorem Follows.resend (h : Follows s₀ s) (p : PortNo) : Follows s₀ (s.resend p) := by
  unfold State.resend
  split
  · exact h
  · split
    · exact h
    · exact (h.transmit p _).updSession p _

theorem Follows.answerTaken (h : Follows s₀ s) (p : PortNo) : Follows s₀ (s.answerTaken p) := h.updSession p _

/-! ## The end of a session -/

theorem Follows.settleSpoiled (h : Follows s₀ s) (p : PortNo) (x : Session) (r : Reason) :
    Follows s₀ (s.settleSpoiled p x r) := by
  unfold State.settleSpoiled
  simp only
  split
  · exact h.enqueue _
  · split
    · exact h.attach p _
    · exact h.enqueue _

theorem Follows.reportUnit (h : Follows s₀ s) (p : PortNo) (x : Session) (o : Ending) (w : Option HoldReason)
    (l : Bool) : Follows s₀ (s.reportUnit p x o w l) := by
  unfold State.reportUnit
  split
  · split
    · split
      · exact h
      · exact h.unitCompleted _ _
    · exact h.unitSpoiled _ _
    · exact h.unitReturned _ _ _
  · exact h

theorem Follows.closeSession (h : Follows s₀ s) (p : PortNo) (o : Ending) (r : Reason) (w : Option HoldReason)
    (l : Bool) (c : EndCause) : Follows s₀ (s.closeSession p o r w l c) := by
  unfold State.closeSession
  split
  · exact h
  · rename_i x hx
    extract_lets s1 s2 s3 s4 s5 s6 s7 s8
    have h1 : Follows s₀ s1 := h.leaveWaiters p
    have h2 : Follows s₀ s2 := by
      simp only [s2]; split
      · exact (h1.updSession p _).giveBack _
      · exact h1
    have h3 : Follows s₀ s3 := h2.leaveWaiting p
    have h4 : Follows s₀ s4 := h3.dropHolds p
    have h5 : Follows s₀ s5 := by
      simp only [s5]; split
      · exact h4.updProfile _ _ fun k => k
      · exact h4
    have h6 : Follows s₀ s6 := h5.reportUnit p x o w l
    have h7 : Follows s₀ s7 := by
      simp only [s7]; split
      · exact h6.sendLast p _ _
      · exact h6.sendLast p _ _
    exact (h7.raisePort _ p).portFrame p _

theorem Follows.endSession (h : Follows s₀ s) (p : PortNo) (o : Ending) (r : Reason) (w : Option HoldReason)
    (d l : Bool) (c : EndCause) : Follows s₀ (s.endSession p o r w d l c) := by
  unfold State.endSession
  split
  · exact h
  · refine Follows.closeSession ?_ p o r w l c
    have u := (h.updSession p fun x => { x with outcome := some (o, r), awaited := none }).withdraw (portRequester p)
      (fun _ => true)
    split
    · exact u.settleSpoiled p _ r
    · exact u

theorem Follows.endUnnumbered (h : Follows s₀ s) (p : PortNo) (o : Ending) (r : Reason) (w : Option HoldReason) :
    Follows s₀ (s.endUnnumbered p o r w) := h.endSession ..
theorem Follows.endSpoiled (h : Follows s₀ s) (p : PortNo) (r : Reason) : Follows s₀ (s.endSpoiled p r) := h.endSession ..
theorem Follows.endComplete (h : Follows s₀ s) (p : PortNo) (c : EndCause) : Follows s₀ (s.endComplete p c) :=
  h.endSession ..

theorem Follows.interruptSettling (h : Follows s₀ s) (p : PortNo) (r : Reason) (c : EndCause) :
    Follows s₀ (s.interruptSettling p r c) := by
  unfold State.interruptSettling
  simp only
  split
  · exact (h.updSettle p _).endSession ..
  · exact (h.updSettle p _).endSession ..

theorem Follows.interrupt (h : Follows s₀ s) (p : PortNo) (r : Reason) (c : EndCause) : Follows s₀ (s.interrupt p r c) := by
  unfold State.interrupt
  split
  · exact h
  · split
    · exact h.endComplete p c
    · exact h.interruptSettling p r c
    · split
      · exact h.endSession ..
      · exact h.endSession ..

/-! ## The line error score -/

theorem Port.Ok.countError {q : Port} (h : q.Ok) (k : LineError) : (q.countError k).Ok := by
  cases k
  · exact ⟨h.settings, h.score, saturate_le _ _, h.cutErrors, h.lengthErrors, h.timeoutErrors⟩
  · exact ⟨h.settings, h.score, h.checkErrors, saturate_le _ _, h.lengthErrors, h.timeoutErrors⟩
  · exact ⟨h.settings, h.score, h.checkErrors, h.cutErrors, saturate_le _ _, h.timeoutErrors⟩
  · exact ⟨h.settings, h.score, h.checkErrors, h.cutErrors, h.lengthErrors, saturate_le _ _⟩

theorem Port.Ok.scoreError {q : Port} (h : q.Ok) (k : LineError) : (q.scoreError k).Ok := by
  have c := h.countError k
  exact ⟨c.settings, saturate_le _ _, c.checkErrors, c.cutErrors, c.lengthErrors, c.timeoutErrors⟩

@[simp] theorem Port.countError_settings (q : Port) (k : LineError) : (q.countError k).settings = q.settings := by
  cases k <;> rfl
@[simp] theorem Port.scoreError_settings (q : Port) (k : LineError) : (q.scoreError k).settings = q.settings := by
  cases k <;> rfl
@[simp] theorem Port.scoreError_score (q : Port) (k : LineError) : (q.scoreError k).score = min 256 (q.score + 8) := rfl

theorem Port.Ok.scoreGood {q : Port} (h : q.Ok) : q.scoreGood.Ok :=
  ⟨h.settings, Nat.le_trans (Nat.sub_le _ _) h.score, h.checkErrors, h.cutErrors, h.lengthErrors, h.timeoutErrors⟩

theorem Follows.scoreGood (h : Follows s₀ s) (p : PortNo) : Follows s₀ (s.updPort p Port.scoreGood) :=
  h.updPort p _ (fun _ => rfl) fun k => k.scoreGood

theorem Follows.retire (h : Follows s₀ s) (p : PortNo) : Follows s₀ (s.retire p) := by
  unfold State.retire
  simp only
  split
  · exact (h.raisePort _ p).interrupt p _ _
  · exact (h.raisePort _ p).portFrame p _

theorem Follows.failWait (h : Follows s₀ s) (p : PortNo) : Follows s₀ (s.failWait p) := by
  unfold State.failWait
  split
  · exact h
  · split
    · exact h
    · split
      · exact h.interrupt p _ _
      · exact h.resend p

theorem Follows.lineError (h : Follows s₀ s) (p : PortNo) (k : LineError) : Follows s₀ (s.lineError p k) := by
  have u : Follows s₀ (s.updPort p (·.scoreError k)) := h.updPort p _ (fun _ => by simp) fun q => q.scoreError k
  have v : ∀ c : Bool, Follows s₀ (if c then (s.updPort p (·.scoreError k)).raisePort .warning p
      else s.updPort p (·.scoreError k)) := fun c => by
    split
    · exact u.raisePort _ p
    · exact u
  unfold State.lineError
  simp only
  split
  · exact (v _).retire p
  · exact (v _).failWait p

/-! ## Greeting and assigning -/

theorem Follows.scan (t : Terminal) (is : List (Fin 32)) (h : Follows s₀ s) : Follows s₀ (State.scan t is s).2 := by
  induction is generalizing s with
  | nil => exact h
  | cons i rest ih =>
    unfold State.scan
    have a := h.readEntry i false
    have b := a.readEntry i true
    simp only
    split
    · split
      · exact b
      · exact ih b
    · split
      · exact a
      · exact ih a

theorem Follows.greet (h : Follows s₀ s) (p : PortNo) (t : Terminal) : Follows s₀ (s.greet p t) := by
  unfold State.greet
  split
  · exact h.endUnnumbered ..
  · have sc := h.scan t (List.finRange 32)
    split
    · rename_i e; exact (sc.pair e).endUnnumbered ..
    · rename_i e
      have sc := sc.pair e
      split
      · exact sc.endUnnumbered ..
      · simp only
        split
        · split
          · exact Follows.endUnnumbered (Follows.updSession (Follows.updProfile (sc.readProfile _) _ _ fun k => k) _ _) ..
          · split
            · exact Follows.endUnnumbered (Follows.updSession (Follows.updProfile (sc.readProfile _) _ _ fun k => k) _ _) ..
            · exact Follows.sendAwaiting (Follows.updSession (Follows.updProfile (sc.readProfile _) _ _ fun k => k) _ _) ..
        · exact (sc.readProfile _).endUnnumbered ..

theorem Follows.askUnit (h : Follows s₀ s) (p : PortNo) : Follows s₀ (s.askUnit p) := by
  have u := h.updSession p fun x => { x with phase := .assigning }
  unfold State.askUnit
  simp only
  split
  · exact u
  · split
    · rename_i o e
      obtain ⟨m, k⟩ := State.oldestEligible?_spec e
      exact u.takeUnit m (Order.eligible_remaining k) p
    · split
      · exact (u.setWaiting _ _).updSession p _
      · exact u.endUnnumbered ..

/-! ## Allocating -/

theorem Follows.takeHolds (p : PortNo) (ns : List (SlotNo × Role × Option KeyKind)) (h : Follows s₀ s) :
    Follows s₀ (State.takeHolds p ns s).2 := by
  induction ns generalizing s with
  | nil => exact h
  | cons n rest ih =>
    obtain ⟨i, role, kind⟩ := n
    unfold State.takeHolds
    extract_lets held
    have u := h.takeHold p i
    simp only
    split
    · split
      · exact ih h
      · exact h
    · split
      · exact ih u
      · exact u

theorem Follows.allocateFor (h : Follows s₀ s) (p : PortNo) : Follows s₀ (s.allocateFor p) := by
  unfold State.allocateFor
  split
  · exact h
  · rename_i c hc
    have a := h.allocate c.contents.root
    split
    · rename_i e
      have a := a.pair e
      split
      · exact a
      · exact (a.updSession p _).enqueue _
    · rename_i e; exact a.pair e
    · rename_i e; exact (a.pair e).endUnnumbered ..
    · rename_i e; exact (a.pair e).endUnnumbered ..

theorem Follows.askPlace (h : Follows s₀ s) (p : PortNo) : Follows s₀ (s.askPlace p) := by
  have a := h.askSession p
  unfold State.askPlace
  split
  · rename_i e; exact ((a.pair e).updSession p _).allocateFor p
  · rename_i e; exact (a.pair e).updSession p _
  · rename_i e; exact (a.pair e).endUnnumbered ..

theorem Follows.unitTaken (h : Follows s₀ s) (p : PortNo) : Follows s₀ (s.unitTaken p) := by
  unfold State.unitTaken
  split
  · exact h
  · split
    · rename_i c _ _ _
      have r := h.readProfile c.number
      simp only
      split
      · exact r.endUnnumbered ..
      · have t := (r.updSession p fun x => { x with phase := .allocating }).takeHolds p c.contents.needs
        split
        · rename_i e; exact ((t.pair e).updSession p _).askPlace p
        · rename_i e; exact (t.pair e).endUnnumbered ..
    · exact h

theorem Follows.placeTaken (h : Follows s₀ s) (p : PortNo) : Follows s₀ (s.placeTaken p) := by
  unfold State.placeTaken
  split
  · split
    · exact h.allocateFor p
    · exact h
  · exact h

theorem Follows.journalFaultTold (h : Follows s₀ s) (p : PortNo) : Follows s₀ (s.journalFaultTold p) := by
  unfold State.journalFaultTold
  split
  · split
    · exact h.endUnnumbered ..
    · exact h
  · exact h

theorem Follows.abortNoticed (h : Follows s₀ s) (p : PortNo) : Follows s₀ (s.abortNoticed p) := by
  unfold State.abortNoticed
  split
  · exact h
  · simp only
    split
    · exact h.endUnnumbered ..
    · exact h

/-! ## Deriving, loading, settling -/

theorem Follows.sendLoad (h : Follows s₀ s) (p : PortNo) : Follows s₀ (s.sendLoad p) := by
  unfold State.sendLoad
  split
  · exact h
  · split
    · exact h.sendAwaiting ..
    · exact (h.updSession p _).sendAwaiting ..

/-- The jobs of a session are those of its port. -/
theorem Session.nextJob_requester {x : Session} {p : PortNo} {a : KeyArea} {j : Job} (h : x.nextJob p a = some j) :
    j.requester = portRequester p := by
  unfold Session.nextJob at h
  dsimp only at h
  repeat' split at h
  all_goals cases h <;> rfl

/-- A job of a session is no SLOT.VERIFY job. -/
theorem Session.nextJob_isVerify {x : Session} {p : PortNo} {a : KeyArea} {j : Job} (h : x.nextJob p a = some j) :
    j.isVerify = false := by
  cases v : j.isVerify
  · rfl
  · have e := (Session.nextJob_requester h).symm.trans (Job.isVerify_requester v)
    have n : p.val = 16 := congrArg Fin.val e
    omega

theorem Follows.enterLoading (h : Follows s₀ s) (p : PortNo) : Follows s₀ (s.enterLoading p) :=
  (h.updSession p _).sendLoad p

theorem Follows.goDeriving (h : Follows s₀ s) (p : PortNo) : Follows s₀ (s.goDeriving p) := by
  unfold State.goDeriving
  split
  · exact h
  · split
    · rename_i e; exact h.submit _ fun v => by rw [Session.nextJob_isVerify e] at v; cases v
    · split
      · exact h
      · exact h.enterLoading p

theorem Follows.issueReported (h : Follows s₀ s) (p : PortNo) : Follows s₀ (s.issueReported p) := by
  unfold State.issueReported
  split
  · split
    · exact (h.updSession p _).goDeriving p
    · exact h
  · exact h

theorem Follows.sessionJobDone (h : Follows s₀ s) (p : PortNo) (w : JobWork) (r : List Byte) :
    Follows s₀ (s.sessionJobDone p w r) := by
  unfold State.sessionJobDone
  split
  · exact h
  · simp only
    refine Follows.goDeriving ?_ p
    split
    · split
      · exact h.portFrame p _
      · exact (h.portFrame p _).updSession p _
    · exact h.updSession p _
    · exact h.updSession p _

theorem Follows.enterSettling (h : Follows s₀ s) (p : PortNo) : Follows s₀ (s.enterSettling p) := by
  unfold State.enterSettling
  split
  · exact h
  · exact (h.updSession p _).enqueue _

theorem Follows.settlementReported (h : Follows s₀ s) (p : PortNo) : Follows s₀ (s.settlementReported p) := by
  unfold State.settlementReported
  split
  · exact h
  · split
    · simp only
      split
      · exact h.updSession p _
      · exact (h.updSession p _).endComplete p _
    · exact h

end Sys2Proof.Machine
end

