-- ==== Sys2Proof/Laws/React.lean ====
section
/-! SUPPORT. What a reaction can do, said once: every reaction, and so the end of every step, follows in the sense
of `Follows` (log entry 5). -/

namespace Sys2Proof.Machine

variable {s₀ s : State}

/-! ## Jobs -/

theorem Follows.mismatch (h : Follows s₀ s) (i : SlotNo) : Follows s₀ (s.mismatch i) := by
  unfold State.mismatch
  split
  · exact h
  · refine Follows.raiseGlobal (h.updSlot i _ fun k => ?_) _
    exact ⟨k.range, k.root, fun _ => by simp⟩

theorem Follows.verifyEnded (h : Follows s₀ s) (o : JobOutcome) : Follows s₀ (s.verifyEnded o) := by
  unfold State.verifyEnded
  split
  · exact h
  · simp only
    split
    · exact h.verifyOver.refuse _
    · split
      · split
        · exact h.verifyOver.answer _ _
        · exact (h.verifyOver.mismatch _).answer _ _
      · exact h.verifyOver.answer _ _
      · exact h.verifyOver.refuse _

theorem Follows.deliver (h : Follows s₀ s) (j : Job) (o : JobOutcome) : Follows s₀ (s.deliver j o) := by
  unfold State.deliver
  split
  · exact h.verifyEnded o
  · split
    · exact h
    · split
      · exact h.sessionJobDone _ _ _
      · exact h.endSpoiled _ _
      · exact h.custodyJobDone _ _
      · exact h

theorem Follows.endJob (h : Follows s₀ s) : Follows s₀ s.endJob := by
  unfold State.endJob
  split
  · exact h
  · exact (h.finish _).deliver _ _

theorem Follows.grantJob (h : Follows s₀ s) (j : Job) : Follows s₀ (s.grantJob j) := by
  have g := (h.grant j).gatherKey j
  unfold State.grantJob
  simp only
  split
  · rename_i e; exact (g.pair e).launch j _ _
  · rename_i e; exact ((g.pair e).promote _).deliver _ _
  · rename_i e; exact ((g.pair e).promote _).deliver _ _

/-! ## Journal requests -/

theorem Follows.readCounters (h : Follows s₀ s) : Follows s₀ s.readCounters.2 := by
  unfold State.readCounters
  exact h.readNextSeq.readReleased

theorem Journal.Ok.release {j : Journal} (h : j.Ok) {n : Nat} (hn : n ≤ j.newest) : (j.release n).Ok := by
  have r : j.releaseTaken n ≤ j.newest := by
    unfold Journal.releaseTaken
    refine Nat.max_le.mpr ⟨h.released, ?_⟩
    split
    · exact Nat.le_trans (Nat.min_le_left _ _) hn
    · exact hn
  have k : { j with released := ⟨j.releaseTaken n, GroupMem.clean⟩ : Journal }.Ok :=
    ⟨h.next, r, h.program, h.custodyOut, h.warnLevel, h.programFailures, h.eraseFailures⟩
  unfold Journal.release
  dsimp only
  split
  · exact k
  · exact k.judgeReclaim

theorem Journal.Ok.setWarn {j : Journal} (h : j.Ok) (n : Nat) : { j with warnLevel := warnTaken n : Journal }.Ok := by
  refine ⟨h.next, h.released, h.program, h.custodyOut, ?_, h.programFailures, h.eraseFailures⟩
  show 16 ≤ warnTaken n ∧ warnTaken n ≤ 4096
  unfold warnTaken
  omega

theorem Follows.serveRequest (h : Follows s₀ s) (r : JournalRequest) : Follows s₀ (s.serveRequest r) := by
  have c := h.readCounters
  unfold State.serveRequest
  split
  · exact h.answer _ _
  · split
    · rename_i e; exact (c.pair e).frameJournal _
    · rename_i e
      simp only
      refine Follows.answer ?_ _ _
      split
      · exact c.pair e
      · exact ((c.pair e).updJournal _ fun k => k.setWarn _).judgeHigh
  · split
    · rename_i e; exact (c.pair e).frameJournal _
    · rename_i e
      split
      · exact (c.pair e).refuse _
      · rename_i hn
        exact Follows.answer ((c.pair e).updJournal _ fun k => k.release (Nat.le_of_not_lt hn)) _ _

theorem Follows.takeRequest (h : Follows s₀ s) (r : JournalRequest) : Follows s₀ (s.takeRequest r) := by
  unfold State.takeRequest
  extract_lets reads
  split
  · exact h.frameJournal _
  · exact h.serveRequest r

theorem Follows.requestNext? (h : Follows s₀ s) {t : State} (e : s.requestNext? = some t) : Follows s₀ t := by
  unfold State.requestNext? at e
  split at e
  · cases e
  · split at e
    · cases e; exact Follows.serveRequest (h.frameJournal _) _
    · cases e

/-! ## Reactions -/

theorem Follows.takeTask (h : Follows s₀ s) (t : Task) : Follows s₀ (s.takeTask t) := by
  cases t with
  | unitHanded p => exact h.unitTaken p
  | placeAccepted p => exact h.placeTaken p
  | journalFault p => exact h.journalFaultTold p
  | abortNotice p => exact h.abortNoticed p
  | issueProgrammed p => exact h.issueReported p

theorem Follows.react? (h : Follows s₀ s) {t : State} (e : s.react? = some t) : Follows s₀ t := by
  unfold State.react? at e
  split at e
  · cases e
  · split at e
    · cases e; exact (h.agenda _).takeTask _
    · split at e
      · rename_i e'; cases e; exact h.takeUp? e'
      · split at e
        · cases e; exact h.grantJob _
        · split at e
          · rename_i e'; cases e; exact h.requestNext? e'
          · exact h.flashNext? e

theorem Follows.settleWith (n : Nat) (h : Follows s₀ s) : Follows s₀ (State.settleWith n s) := by
  induction n generalizing s with
  | zero => exact h
  | succ n ih =>
    unfold State.settleWith
    split
    · exact h
    · rename_i e; exact ih (h.react? e)

/-- The end of a step follows. -/
theorem Follows.settle (h : Follows s₀ s) : Follows s₀ s.settle := h.settleWith _

/-- A state in which no reaction is due is left as it is by the end of a step. -/
theorem State.settle_of_quiet (s : State) (h : s.react? = none) : s.settle = s := by
  unfold State.settle reactionLimit State.settleWith
  simp [h]

/-- In SHUTDOWN nothing follows within a step (R190). -/
theorem State.settle_of_shutdown (s : State) (h : s.isShutdown = true) : s.settle = s :=
  s.settle_of_quiet (by simp [State.react?, h])

end Sys2Proof.Machine
end

