-- ==== Sys2Proof/Laws/Quiet.lean ====
section
/-! SUPPORT. When nothing is left to be taken within a step, and what a change of the Link Controller alone leaves of
that. -/

namespace Sys2Proof.Machine

/-- Nothing is left in SHUTDOWN; otherwise when no consequence, component, job, journal request or flash operation
is due. -/
theorem State.quiet_iff (s : State) : s.Quiet ↔ s.isShutdown = true ∨
    (s.agenda = [] ∧ s.takeUp? = none ∧ s.engine.granted? = none ∧ s.requestNext? = none ∧ s.flashNext? = none) := by
  unfold State.Quiet State.react?
  by_cases h : s.isShutdown = true
  · simp [h]
  · simp only [h, if_false, false_or, Bool.false_eq_true]
    constructor
    · intro k
      split at k
      · cases k
      · rename_i ha
        split at k
        · cases k
        · rename_i ht
          split at k
          · cases k
          · rename_i hg
            split at k
            · cases k
            · rename_i hq; exact ⟨ha, ht, hg, hq, k⟩
    · rintro ⟨ha, ht, hg, hq, hf⟩
      simp only [ha, ht, hg, hq, hf]

/-- No component is taken up when the intake is empty or one is under check. -/
theorem State.takeUp?_eq_none (s : State) : s.takeUp? = none ↔ s.custody.intake = [] ∨ s.custody.underCheck = true := by
  unfold State.takeUp?
  split
  · rename_i h; simp [h]
  · rename_i h
    split
    · rename_i u; simp [u]
    · rename_i u
      simp only [h, u, List.cons_ne_nil, Bool.false_eq_true, or_self, iff_false]
      split <;> exact fun x => by cases x

theorem State.requestNext?_eq_none (s : State) : s.requestNext? = none ↔
    s.journal.request = none ∨ s.journal.flash ≠ .idle ∨ s.journal.rebuilding = true := by
  unfold State.requestNext?
  split
  · rename_i h; simp [h]
  · rename_i h
    split
    · rename_i u
      simp only [Bool.and_eq_true, decide_eq_true_eq, Bool.not_eq_true'] at u
      simp [h, u.1, u.2]
    · rename_i u
      simp only [h, true_iff]
      by_cases f : s.journal.flash = .idle
      · right; right; simpa [f] using u
      · exact .inr (.inl f)

theorem State.flashNext?_eq_none (s : State) : s.flashNext? = none ↔
    (s.journal.flash ≠ .idle ∨ s.journal.rebuilding = true ∨ s.journal.state = .stopped ∨ s.link.restart = .due) ∨
      (s.journal.head? = none ∧ s.journal.eraseList = []) := by
  unfold State.flashNext? State.flashStops
  split
  · rename_i h; simp only [true_iff]; left; simpa [or_assoc] using h
  · rename_i h
    have h' : ¬ (s.journal.flash ≠ .idle ∨ s.journal.rebuilding = true ∨ s.journal.state = .stopped ∨ s.link.restart = .due) := by
      simpa [or_assoc] using h
    simp only [h', false_or]
    split
    · rename_i e; split <;> simp [e]
    · rename_i e; simp [e]
    · rename_i e
      split
      · rename_i l; simpa [e] using l
      · rename_i l; simpa [e] using l

/-- A change of the Link Controller that keeps mode and restart keeps a state quiet. -/
theorem State.Quiet.link {s : State} (h : s.Quiet) (l : LinkController) (hm : l.mode = s.link.mode)
    (hr : l.restart = s.link.restart) : State.Quiet { s with link := l } := by
  rw [State.quiet_iff] at h ⊢
  simp only [State.takeUp?_eq_none, State.requestNext?_eq_none, State.flashNext?_eq_none, State.isShutdown] at h ⊢
  simpa only [hm, hr] using h

theorem State.Quiet.settle {s : State} (h : s.Quiet) : s.settle = s := State.settle_of_quiet s h

theorem State.Quiet.settle_link {s : State} (h : s.Quiet) (l : LinkController) (hm : l.mode = s.link.mode)
    (hr : l.restart = s.link.restart) : State.settle { s with link := l } = { s with link := l } := (h.link l hm hr).settle

end Sys2Proof.Machine
end

