-- ==== Sys2Proof/Laws/Answers.lean ====
section
/-! SUPPORT. How a request passes the Link Controller's checks and how its answer becomes the reply owed, each said
once. -/

namespace Sys2Proof.Machine

/-- A frame heard is taken. -/
theorem State.Hears.takeFrame {s : State} (h : s.Hears) (g v tag : Byte) (params : List Byte) (k : State → State) :
    s.takeFrame g v tag params k = k (s.taken g v tag params) := by
  unfold State.takeFrame State.taken
  rw [h.hunting, h.free]

/-- A request that passes every check goes to its owner. -/
theorem State.Takes.request {s : State} (h : s.Takes) (g v : Byte) (shape : Shape) (e : Bool) (tag : Byte)
    (params : List Byte) (owner : State → State) (hl : params.length = shape.length)
    (hb : shape = .bare → params = [0]) : s.request g v shape e tag params owner = owner (s.taken g v tag params) := by
  unfold State.request
  rw [State.Hears.takeFrame ⟨h.hunting, h.free⟩]
  have hm : (s.taken g v tag params).link.mode = .ready := h.ready
  rw [if_neg (by simp [hm]), if_neg (by simp [hm]), if_neg (by simp [hl]), if_neg]
  simp only [Bool.and_eq_true, decide_eq_true_eq, not_and]
  exact fun x y => y (hb x)

/-- The owner's first answer forms the reply. -/
theorem State.answer_replied {s : State} {g v tag : Byte} {params : List Byte}
    (ho : s.link.owed = some ⟨g, v, tag, none⟩)
    (hb : s.link.buffer = g :: v :: tag :: params) (st : Status) (result : List Byte) :
    s.answer st result = s.replied g v tag params st result := by
  unfold State.answer State.replied
  rw [ho]
  simp only [replyBody, ← hb]

/-- What a reply replaces of the receiver does not matter to it. -/
theorem State.replied_link (s : State) (l : LinkController) (g v tag : Byte) (params : List Byte) (st : Status)
    (result : List Byte) (h : l = { s.link with owed := l.owed, buffer := l.buffer }) :
    State.replied { s with link := l } g v tag params st result = s.replied g v tag params st result := by
  rw [h]; rfl

/-- A request answered at once. -/
@[simp] theorem State.taken_answer (s : State) (g v tag : Byte) (params : List Byte) (st : Status) (result : List Byte) :
    (s.taken g v tag params).answer st result = s.replied g v tag params st result := by
  rw [State.answer_replied (g := g) (v := v) (tag := tag) (params := params) rfl rfl]; rfl

@[simp] theorem State.taken_refuse (s : State) (g v tag : Byte) (params : List Byte) (st : Status) :
    (s.taken g v tag params).refuse st = s.replied g v tag params st [] := State.taken_answer ..

/-- A reply owed leaves a quiet state quiet. -/
theorem State.Quiet.replied {s : State} (h : s.Quiet) (g v tag : Byte) (params : List Byte) (st : Status)
    (result : List Byte) : (s.replied g v tag params st result).settle = s.replied g v tag params st result :=
  h.settle_link _ rfl rfl

end Sys2Proof.Machine
end

