-- ==== Sys2Proof/Laws/Bytes.lean ====
section
/-! SUPPORT. Numbers read from bytes and written as bytes. -/

namespace Sys2Proof.Machine

theorem ofBE_fold_lt (bs : List Byte) (acc : Nat) :
    bs.foldl (fun acc b => acc * 256 + b.toNat) acc < (acc + 1) * 256 ^ bs.length := by
  induction bs generalizing acc with
  | nil => simp
  | cons b bs ih =>
    refine Nat.lt_of_lt_of_le (ih _) ?_
    have hb : acc * 256 + b.toNat + 1 ≤ (acc + 1) * 256 := by have := b.isLt; omega
    calc _ ≤ (acc + 1) * 256 * 256 ^ bs.length := Nat.mul_le_mul_right _ hb
      _ = _ := by rw [List.length_cons, Nat.pow_succ, Nat.mul_assoc, Nat.mul_comm 256]

theorem ofBE_lt (bs : List Byte) : ofBE bs < 256 ^ bs.length := by
  simpa [ofBE] using ofBE_fold_lt bs 0

/-- A number in `n` bytes is below `256 ^ n`. -/
theorem number_lt (params : List Byte) (off n : Nat) : number params off n < 256 ^ n :=
  Nat.lt_of_lt_of_le (ofBE_lt _) (Nat.pow_le_pow_right (by decide) (by rw [field, List.length_take]; exact Nat.min_le_left ..))

@[simp] theorem be_length (n v : Nat) : (be n v).length = n := by
  induction n with
  | zero => rfl
  | succ n ih => simp [be, ih]

@[simp] theorem padTo_length (n : Nat) (f : Byte) (bs : List Byte) : (padTo n f bs).length = n := by
  simp [padTo]; omega

@[simp] theorem present_length (w : Nat) (o : Option (List Byte)) : (present w o).length = w + 1 := by
  cases o <;> simp [present]

@[simp] theorem readable_length (u : Bool) (w : Nat) (o : Option (List Byte)) : (readable u w o).length = w + 1 := by
  cases u <;> simp [readable]

end Sys2Proof.Machine
end

