-- ==== Sys2Proof/Laws/Sound.lean ====
section
/-! SUPPORT. Reads of protected memory that has no latent error change nothing. -/

namespace Sys2Proof.Machine

theorem Bank.put_look {α : Type} {n : Nat} (v : Bank α n) (i : Fin n) : v.put i (v.look i) = v := by
  simp [Bank.put, Bank.look]

@[simp] theorem State.countCorrected_zero (s : State) : s.countCorrected 0 = s := rfl

/-- A clean group fails no read and has nothing to correct. -/
theorem SlotMem.clean_get (g : SlotGroup) : SlotMem.clean.get g = GroupMem.clean := by cases g <;> rfl

theorem SlotMem.clean_updAll (gs : List SlotGroup) : SlotMem.clean.updAll gs GroupMem.corrected = SlotMem.clean := by
  unfold SlotMem.updAll
  induction gs with
  | nil => rfl
  | cons g gs ih =>
    rw [List.foldl_cons]
    have : SlotMem.clean.upd g GroupMem.corrected = SlotMem.clean := by cases g <;> rfl
    rw [this]; exact ih

theorem State.readSlotWords_sound {s : State} {i : SlotNo} (h : (s.slot i).mem = SlotMem.clean) (gs : List SlotGroup) :
    s.readSlotWords i gs = s := by
  have z : ∀ gs : List SlotGroup, (gs.map (fun g => ((s.slot i).mem.get g).found)).sum = 0 := by
    intro gs
    induction gs with
    | nil => rfl
    | cons g gs ih =>
      rw [List.map_cons, List.sum_cons, ih, h, SlotMem.clean_get]; rfl
  have f : gs.any (fun g => ((s.slot i).mem.get g).fails) = false := by
    rw [List.any_eq_false]; intro g _; rw [h, SlotMem.clean_get]; simp [GroupMem.fails, GroupMem.clean]
  have m : (s.slot i).mem.state.fails = false := by rw [h]; rfl
  have u : { s.slot i with mem := (s.slot i).mem.updAll (.state :: gs) GroupMem.corrected } = s.slot i := by
    rw [h, SlotMem.clean_updAll, ← h]
  unfold State.readSlotWords
  simp only [z, State.countCorrected_zero, f, m, u]
  simp only [Bool.false_eq_true, if_false]
  unfold State.setSlot State.slot
  rw [Bank.put_look]

theorem State.readSlot_sound {s : State} {i : SlotNo} (h : (s.slot i).mem = SlotMem.clean) (gs : List SlotGroup) :
    s.readSlot i gs = s := by
  unfold State.readSlot
  simp only [State.readSlotWords_sound h]
  rw [if_neg]
  simp only [Bool.and_eq_true, decide_eq_true_eq, not_and]
  intro x
  rw [x.1] at x
  cases x.2

theorem ProfileMem.clean_get (g : ProfGroup) : ProfileMem.clean.get g = GroupMem.clean := by cases g <;> rfl

theorem ProfileMem.clean_updAll (gs : List ProfGroup) : ProfileMem.clean.updAll gs GroupMem.corrected = ProfileMem.clean := by
  unfold ProfileMem.updAll
  induction gs with
  | nil => rfl
  | cons g gs ih =>
    rw [List.foldl_cons]
    have : ProfileMem.clean.upd g GroupMem.corrected = ProfileMem.clean := by cases g <;> rfl
    rw [this]; exact ih

theorem State.readProfileWords_sound {s : State} {i : Fin 16} (h : (s.profile i).mem = ProfileMem.clean)
    (gs : List ProfGroup) : s.readProfileWords i gs = s := by
  have z : ∀ gs : List ProfGroup, (gs.map (fun g => ((s.profile i).mem.get g).found)).sum = 0 := by
    intro gs
    induction gs with
    | nil => rfl
    | cons g gs ih =>
      rw [List.map_cons, List.sum_cons, ih, h, ProfileMem.clean_get]; rfl
  have f : gs.any (fun g => ((s.profile i).mem.get g).fails) = false := by
    rw [List.any_eq_false]; intro g _; rw [h, ProfileMem.clean_get]; simp [GroupMem.fails, GroupMem.clean]
  have m : (s.profile i).mem.state.fails = false := by rw [h]; rfl
  have u : { s.profile i with mem := (s.profile i).mem.updAll (.state :: gs) GroupMem.corrected } = s.profile i := by
    rw [h, ProfileMem.clean_updAll, ← h]
  unfold State.readProfileWords
  simp only [z, State.countCorrected_zero, f, m, u]
  simp only [Bool.false_eq_true, if_false]
  unfold State.setProfile State.profile
  rw [Bank.put_look]

theorem State.readEntry_sound {s : State} {i : Fin 32} (hc : (s.entry i).control = GroupMem.clean)
    (hm : (s.entry i).contents = GroupMem.clean) (both : Bool) : s.readEntry i both = s := by
  have p : s.setEntry i (s.entry i) = s := by unfold State.setEntry State.entry; rw [Bank.put_look]
  unfold State.readEntry
  generalize s.entry i = x at *
  obtain ⟨w, e, d, t, v, m, n, c, k⟩ := x
  simp only at hc hm
  subst hc hm
  cases both <;>
    simpa [GroupMem.fails, GroupMem.found, GroupMem.corrected, GroupMem.marked, GroupMem.clean] using p

/-- Reads of a taken request's sound memory. -/
theorem State.Sound.taken {s : State} (h : s.Sound) (g v tag : Byte) (params : List Byte) :
    (s.taken g v tag params).Sound := ⟨h.slots, h.profiles, h.control, h.contents⟩

theorem State.Sound.readSlot {s : State} (h : s.Sound) (i : SlotNo) (gs : List SlotGroup) : s.readSlot i gs = s :=
  State.readSlot_sound (h.slots i) gs

theorem State.Sound.readProfile {s : State} (h : s.Sound) (i : Fin 16) : s.readProfile i = s :=
  State.readProfileWords_sound (h.profiles i) _

theorem State.Sound.readProfileState {s : State} (h : s.Sound) (i : Fin 16) : s.readProfileState i = s :=
  State.readProfileWords_sound (h.profiles i) _

theorem State.Sound.readEntry {s : State} (h : s.Sound) (i : Fin 32) (both : Bool) : s.readEntry i both = s :=
  State.readEntry_sound (h.control i) (h.contents i) both

end Sys2Proof.Machine
end

