-- ==== Sys2Proof/Laws/Room.lean ====
section
/-! SUPPORT. An acceptance for a custody request where there is room, said once (R168, R170). -/

namespace Sys2Proof.Machine

/-- A promise lowers the free count by as much. -/
theorem Journal.free_promised (j : Journal) (n m : Nat) :
    ({ j with promised := j.promised + n, custodyOut := m } : Journal).free = j.free - n := by
  unfold Journal.free
  have : ({ j with promised := j.promised + n, custodyOut := m } : Journal).erasedPlaces = j.erasedPlaces := rfl
  rw [this]; simp only; omega

/-- With room, an acceptance raises the counts, judges the warning and does nothing else. -/
theorem State.RoomFor.askCustody {s : State} {n : Nat} (h : s.RoomFor n) :
    s.askCustody n = (true, (s.flagged (s.journal.highFlag n)).updJournal (·.accepted n [])) := by
  have a : s.journal.acceptable false (.custody n) = true := by
    simp [Journal.acceptable, h.working, h.waiters, Journal.askerOk, Asker.places, h.free, h.custody]
  unfold State.askCustody
  rw [if_pos a]
  have f := s.journal.free_promised n (s.journal.custodyOut + n)
  unfold State.judgeHigh State.updJournal Journal.promise
  simp only [f]
  by_cases x : s.journal.free - n ≤ s.journal.warnLevel
  · cases y : s.journal.highNoted <;>
      simp [x, y, Journal.accepted, Journal.highFlag, State.flagged, State.raiseGlobal, State.raise, LinkController.raise]
  · simp [x, Journal.accepted, Journal.highFlag, State.flagged]

theorem State.RoomFor.withPlace {s : State} (h : s.RoomFor 1) (k : State → State) :
    s.withPlace k = k ((s.flagged (s.journal.highFlag 1)).updJournal (·.accepted 1 [])) := by
  unfold State.withPlace; rw [h.askCustody]

theorem State.RoomFor.taken {s : State} {n : Nat} (h : s.RoomFor n) (g v tag : Byte) (params : List Byte) :
    (s.taken g v tag params).RoomFor n := ⟨h.working, h.free, h.waiters, h.custody⟩

/-- The window open, a request's owner goes on with its two numbers. -/
theorem State.WindowOf.under {s : State} {a b : Nat} (h : s.WindowOf a b) (k : Nat × Nat → State → State) :
    s.underWindow k = k (a, b) s := by
  obtain ⟨w, h, rfl, rfl⟩ := h
  simp [State.underWindow, State.windowOpen, State.windowPair, h]

theorem State.WindowOf.taken {s : State} {a b : Nat} (h : s.WindowOf a b) (g v tag : Byte) (params : List Byte) :
    (s.taken g v tag params).WindowOf a b := h

@[simp] theorem State.flagged_zero (s : State) : s.flagged 0 = s := by simp [State.flagged]

theorem State.raiseWhen_flagged (s : State) (c : Bool) (g : GlobalFlag) :
    s.raiseWhen c g = s.flagged (if c then (EventFlag.global g).single else 0) := by
  cases c
  · exact s.flagged_zero.symm
  · rfl

/-- A request's record queued after its acceptance, and its answer: what changed beside the Link Controller and the
Journal stands, the record is queued and the flags of `v` are raised with the warning's. -/
theorem State.recorded_replied {s y : State} {g v tag : Byte} {params : List Byte} (n : Nat) (f : BitVec 88)
    (hl : y.link = ((s.taken g v tag params).flagged (s.journal.highFlag n)).link) (hj : y.journal = s.journal.accepted n [])
    (t : CustodyType) (pair : Nat × Nat) (fields result : List Byte) :
    ((y.queueCustody t pair fields).flagged f).answer .ok result
      = (State.recorded { y with link := s.link, journal := s.journal } n ⟨t, s.stamp, pair.1, pair.2, fields⟩ f).replied
          g v tag params .ok result := by
  obtain ⟨q, ag, pn, l, k, cu, en, pr, es, os, ps, j⟩ := y
  simp only at hl hj
  subst hl hj
  rw [State.answer_replied (g := g) (v := v) (tag := tag) (params := params) rfl rfl]
  simp only [State.replied, State.recorded, State.flagged, State.queueCustody, State.enqueue, State.updJournal,
    Journal.accepted, State.taken, Journal.highFlag, List.append_assoc, List.map_nil, List.append_nil, List.map_cons,
    BitVec.or_assoc]
  rfl

end Sys2Proof.Machine
end

