-- ==== Sys2Proof/Laws/Ending.lean ====
section
/-! SUPPORT. The end of a session, said once (R130, R157): what it reaches, and what it leaves of every other
block. -/

namespace Sys2Proof.Machine

variable {s t u : State} {p : PortNo}

/-- A flag's place lies within a flag set. -/
theorem EventFlag.bit_lt (f : EventFlag) : f.bit < 88 := by cases f <;> simp only [EventFlag.bit] <;> omega

/-- A flag raised is pending. -/
theorem LinkController.raise_pends (l : LinkController) (f : EventFlag) : (l.raise f).pending.getLsbD f.bit = true := by
  have := f.bit_lt
  simp [LinkController.raise, EventFlag.single, this]

/-- `t` is `s` but for what the steps of a session's end on port `p` change before the port closes: sessions, order
counts, holders counts, the Journal, flags, consequences. -/
structure Around (p : PortNo) (s t : State) : Prop where
  ports : ∀ q, t.port q = { s.port q with session := (t.port q).session }
  seq : (t.session? p).map Session.upcoming = (s.session? p).map Session.upcoming
  link : t.link = { s.link with pending := t.link.pending }
  engine : t.engine = s.engine
  profiles : ∀ n, t.profile n = { s.profile n with holders := (t.profile n).holders }
  slots : ∀ i, (t.slot i).mem = (s.slot i).mem
  rest : t.custody = s.custody ∧ t.entries = s.entries ∧ t.pins = s.pins ∧ t.pending = s.pending

theorem Around.refl (s : State) : Around p s s := ⟨fun _ => rfl, rfl, rfl, rfl, fun _ => rfl, fun _ => rfl, rfl, rfl, rfl, rfl⟩

theorem Around.trans (h : Around p s t) (k : Around p t u) : Around p s u where
  ports q := by rw [k.ports q, h.ports q]
  seq := k.seq.trans h.seq
  link := by rw [k.link, h.link]
  engine := k.engine.trans h.engine
  profiles n := by rw [k.profiles n, h.profiles n]
  slots i := (k.slots i).trans (h.slots i)
  rest := ⟨k.rest.1.trans h.rest.1, k.rest.2.1.trans h.rest.2.1, k.rest.2.2.1.trans h.rest.2.2.1,
    k.rest.2.2.2.trans h.rest.2.2.2⟩

theorem State.Sound.states (h : s.Sound) : s.StatesSound := fun i => by rw [h.slots i]; rfl

/-- A read of a sound state group alone changes nothing. -/
theorem State.StatesSound.readSlot (h : s.StatesSound) (i : SlotNo) : s.readSlot i [] = s := by
  have w : s.readSlotWords i [] = s := by
    have f : (s.slot i).mem.state.found = 0 := by rw [h i]; rfl
    have g : (s.slot i).mem.state.fails = false := by rw [h i]; rfl
    have c : (s.slot i).mem.updAll [.state] GroupMem.corrected = (s.slot i).mem := by
      show { (s.slot i).mem with state := (s.slot i).mem.state.corrected } = _
      rw [h i]
      have : GroupMem.clean.corrected = (s.slot i).mem.state := by rw [h i]; rfl
      rw [this]
    unfold State.readSlotWords
    simp only [List.map_cons, List.map_nil, List.sum_cons, List.sum_nil, SlotMem.get, f, g, c, Nat.add_zero,
      State.countCorrected_zero, List.any_nil, Bool.false_eq_true, if_false]
    unfold State.setSlot State.slot
    rw [Bank.put_look]
  unfold State.readSlot
  simp only [w]
  rw [if_neg]
  simp only [Bool.and_eq_true, decide_eq_true_eq, not_and]
  intro x
  rw [x.1] at x
  cases x.2

theorem Around.states (h : Around p s t) (k : s.StatesSound) : t.StatesSound := fun i => by rw [h.slots i]; exact k i

theorem Around.updSession (s : State) (q : PortNo) (f : Session → Session) (hf : ∀ x, (f x).seq = x.seq) :
    Around p s (s.updSession q f) where
  ports r := by
    by_cases h : r = q
    · subst h; unfold State.updSession; rw [State.port_updPort_self]
    · unfold State.updSession; rw [State.port_updPort_ne _ _ h]
  seq := by
    by_cases h : p = q
    · subst h
      unfold State.session? State.updSession
      rw [State.port_updPort_self]
      cases (s.port p).session with
      | none => rfl
      | some x => simp [Session.upcoming, hf]
    · unfold State.session? State.updSession; rw [State.port_updPort_ne _ _ h]
  link := rfl
  engine := rfl
  profiles _ := rfl
  slots _ := rfl
  rest := ⟨rfl, rfl, rfl, rfl⟩

/-- The steps that touch neither the Key Store nor the profiles, nor the session's list of holds. -/
structure Aside (p : PortNo) (s t : State) : Prop extends Around p s t where
  keys : t.keys = s.keys
  table : t.profiles = s.profiles
  holds : (t.session? p).map (·.slotHolds) = (s.session? p).map (·.slotHolds)

theorem Aside.refl (s : State) : Aside p s s := ⟨Around.refl s, rfl, rfl, rfl⟩

theorem Aside.trans (h : Aside p s t) (k : Aside p t u) : Aside p s u :=
  ⟨h.toAround.trans k.toAround, k.keys.trans h.keys, k.table.trans h.table, k.holds.trans h.holds⟩

theorem Aside.orders (s : State) (o : OrderTable) : Aside p s { s with orders := o } :=
  ⟨⟨fun _ => rfl, rfl, rfl, rfl, fun _ => rfl, fun _ => rfl, rfl, rfl, rfl, rfl⟩, rfl, rfl, rfl⟩

theorem Aside.journal (s : State) (j : Journal) : Aside p s { s with journal := j } :=
  ⟨⟨fun _ => rfl, rfl, rfl, rfl, fun _ => rfl, fun _ => rfl, rfl, rfl, rfl, rfl⟩, rfl, rfl, rfl⟩

theorem Aside.tell (s : State) (t : Task) : Aside p s (s.tell t) :=
  ⟨⟨fun _ => rfl, rfl, rfl, rfl, fun _ => rfl, fun _ => rfl, rfl, rfl, rfl, rfl⟩, rfl, rfl, rfl⟩

theorem Aside.raise (s : State) (f : EventFlag) : Aside p s (s.raise f) :=
  ⟨⟨fun _ => rfl, rfl, rfl, rfl, fun _ => rfl, fun _ => rfl, rfl, rfl, rfl, rfl⟩, rfl, rfl, rfl⟩

theorem Aside.updSession (s : State) (q : PortNo) (f : Session → Session) (hf : ∀ x, (f x).seq = x.seq)
    (hh : ∀ x, (f x).slotHolds = x.slotHolds) : Aside p s (s.updSession q f) where
  toAround := Around.updSession s q f hf
  keys := rfl
  table := rfl
  holds := by
    by_cases h : p = q
    · subst h
      unfold State.session? State.updSession
      rw [State.port_updPort_self]
      cases (s.port p).session with
      | none => rfl
      | some x => simp [hh]
    · unfold State.session? State.updSession; rw [State.port_updPort_ne _ _ h]

theorem Around.updSlot (s : State) (i : SlotNo) (f : Slot → Slot) (hf : ∀ x, (f x).mem = x.mem) :
    Around p s (s.updSlot i f) where
  ports _ := rfl
  seq := rfl
  link := rfl
  engine := rfl
  profiles _ := rfl
  slots k := by
    have := Bank.look_put s.keys.slots i k (f (s.slot i))
    unfold State.updSlot State.setSlot
    show ((s.keys.slots.put i (f (s.slot i))).look k).mem = _
    rw [this]
    split
    · rename_i h; subst h; exact hf _
    · rfl
  rest := ⟨rfl, rfl, rfl, rfl⟩

theorem Around.updProfile (s : State) (i : Fin 16) (k : Nat → Nat) :
    Around p s (s.updProfile i (fun g => { g with holders := k g.holders })) where
  ports _ := rfl
  seq := rfl
  link := rfl
  engine := rfl
  profiles n := by
    have := Bank.look_put s.profiles i n { s.profile i with holders := k (s.profile i).holders }
    unfold State.updProfile State.setProfile
    generalize hv : s.profiles.put i _ = v at *
    show v.look n = { s.profile n with holders := (v.look n).holders }
    rw [this]
    split
    · rename_i h; subst h; rfl
    · rfl
  slots _ := rfl
  rest := ⟨rfl, rfl, rfl, rfl⟩

theorem Aside.foldl {α : Type} (f : State → α → State) (hf : ∀ s x, Aside p s (f s x)) (xs : List α) (s : State) :
    Aside p s (xs.foldl f s) := by
  induction xs generalizing s with
  | nil => exact Aside.refl s
  | cons x xs ih => exact (hf s x).trans (ih _)

/-! ## The Journal's part -/

theorem Aside.judgeHigh (s : State) : Aside p s s.judgeHigh := by
  unfold State.judgeHigh
  split
  · split
    · exact Aside.refl s
    · exact (Aside.journal s _).trans (Aside.raise _ _)
  · exact Aside.journal s _

theorem Aside.serveWaiter (s : State) (q : PortNo) : Aside p s (s.serveWaiter q) := by
  unfold State.serveWaiter
  split
  · refine Aside.trans ?_ (Aside.tell _ _)
    refine Aside.trans ?_ (Aside.updSession _ q _ (fun _ => rfl) fun _ => rfl)
    exact (Aside.journal s _).trans (Aside.judgeHigh _)
  · exact Aside.refl s

theorem Aside.giveBack (s : State) (a : Asker) : Aside p s (s.giveBack a) :=
  ((Aside.journal s _).trans (Aside.judgeHigh _)).trans (Aside.foldl _ Aside.serveWaiter _ _)

/-- A place given back touches no order. -/
theorem State.giveBack_orders (s : State) (a : Asker) : (s.giveBack a).orders = s.orders := by
  have j : ∀ s : State, s.judgeHigh.orders = s.orders := by
    intro s; unfold State.judgeHigh; split
    · split <;> rfl
    · rfl
  have w : ∀ (s : State) q, (s.serveWaiter q).orders = s.orders := by
    intro s q; unfold State.serveWaiter; split
    · exact j _
    · rfl
  have f : ∀ (l : List PortNo) (s : State), (l.foldl State.serveWaiter s).orders = s.orders := by
    intro l; induction l with
    | nil => exact fun _ => rfl
    | cons q l ih => intro s; rw [List.foldl_cons, ih, w]
  unfold State.giveBack State.serveWaiters
  rw [f, j]; rfl

theorem Aside.settleSpoiled (s : State) (q : PortNo) (x : Session) (why : Reason) : Aside p s (s.settleSpoiled q x why) := by
  unfold State.settleSpoiled
  simp only
  split
  · exact Aside.journal s _
  · split <;> exact Aside.journal s _

/-- A settlement handed over changes the run part of the write queue alone. -/
theorem State.settleSpoiled_journal (s : State) (q : PortNo) (x : Session) (why : Reason) :
    (s.settleSpoiled q x why).journal = { s.journal with runQueue := (s.settleSpoiled q x why).journal.runQueue }
      ∧ (s.settleSpoiled q x why).orders = s.orders := by
  unfold State.settleSpoiled
  simp only
  split
  · exact ⟨rfl, rfl⟩
  · split <;> exact ⟨rfl, rfl⟩

/-! ## The Order Table's part -/

theorem Aside.takeUnit (s : State) (n : Nat) (q : PortNo) : Aside p s (s.takeUnit n q) := by
  refine Aside.trans ?_ (Aside.tell _ _)
  refine Aside.trans ?_ (Aside.updSession _ q _ (fun _ => rfl) fun _ => rfl)
  exact Aside.orders s _

theorem Aside.serveProfile (s : State) (n : Fin 16) : Aside p s (s.serveProfile n) :=
  Aside.foldl _ (fun s q => by
    unfold State.serveOne
    split
    · exact (Aside.orders s _).trans (Aside.takeUnit _ _ _)
    · exact Aside.refl s) _ _

theorem Aside.serveOrder (s : State) (n : Nat) : Aside p s (s.serveOrder n) := by
  unfold State.serveOrder
  split
  · split
    · exact Aside.serveProfile s _
    · exact Aside.refl s
  · exact Aside.refl s

theorem Aside.testFinished (s : State) (n : Nat) : Aside p s (s.testFinished n) := by
  unfold State.testFinished
  split
  · split
    · exact (Aside.orders s _).trans (Aside.raise _ _)
    · exact Aside.refl s
  · exact Aside.refl s

theorem Aside.callHold (s : State) (n : Nat) (why : HoldReason) : Aside p s (s.callHold n why) := by
  unfold State.callHold
  split
  · split
    · exact (Aside.orders s _).trans (Aside.raise _ _)
    · exact Aside.refl s
  · exact Aside.refl s

theorem Aside.callHold? (s : State) (n : Nat) (why : Option HoldReason) : Aside p s (s.callHold? n why) := by
  unfold State.callHold?
  split
  · exact Aside.callHold s n _
  · exact Aside.refl s

theorem Aside.unitEnd (s : State) (n : Nat) (q : PortNo) (k : Order → State) (hk : ∀ o, Aside p s (k o)) :
    Aside p s (s.unitEnd n q k) := by
  unfold State.unitEnd
  split
  · split
    · exact hk _
    · exact Aside.refl s
  · exact Aside.refl s

theorem Aside.unitReturned (s : State) (n : Nat) (q : PortNo) (why : Option HoldReason) :
    Aside p s (s.unitReturned n q why) := by
  refine Aside.unitEnd s n q _ fun o => ?_
  have u : Aside p s (((s.updOrder n (·.takeBack q)).callHold? n why).testFinished n) :=
    ((Aside.orders s _).trans (Aside.callHold? _ n why)).trans (Aside.testFinished _ n)
  dsimp only
  split
  · exact u
  · exact u.trans (Aside.serveOrder _ n)

theorem Aside.unitCompleted (s : State) (n : Nat) (q : PortNo) : Aside p s (s.unitCompleted n q) :=
  Aside.unitEnd s n q _ fun _ => (Aside.orders s _).trans (Aside.testFinished _ n)

theorem Aside.unitSpoiled (s : State) (n : Nat) (q : PortNo) : Aside p s (s.unitSpoiled n q) := by
  refine Aside.unitEnd s n q _ fun o => ?_
  dsimp only
  split
  · exact ((Aside.orders s _).trans (Aside.testFinished _ n)).trans (Aside.serveOrder _ n)
  · refine (?_ : Aside p s _).trans (Aside.testFinished _ n)
    split
    · exact Aside.orders s _
    · exact (Aside.orders s _).trans (Aside.callHold _ n _)

theorem Aside.reportUnit (s : State) (q : PortNo) (x : Session) (o : Ending) (why : Option HoldReason) (later : Bool) :
    Aside p s (s.reportUnit q x o why later) := by
  unfold State.reportUnit
  split
  · split
    · split
      · exact Aside.refl s
      · exact Aside.unitCompleted s _ _
    · exact Aside.unitSpoiled s _ _
    · exact Aside.unitReturned s _ _ _
  · exact Aside.refl s

/-- The unit ends leave the Journal alone. -/
theorem State.reportUnit_journal (s : State) (q : PortNo) (x : Session) (o : Ending) (why : Option HoldReason)
    (later : Bool) : (s.reportUnit q x o why later).journal = s.journal := by
  have f : ∀ (n : Fin 16) (l : List PortNo) (s : State), (l.foldl (State.serveOne n) s).journal = s.journal := by
    intro n l; induction l with
    | nil => exact fun _ => rfl
    | cons q l ih =>
      intro s; rw [List.foldl_cons, ih]
      unfold State.serveOne; split <;> rfl
  have so : ∀ (s : State) n, (s.serveOrder n).journal = s.journal := by
    intro s n; unfold State.serveOrder; split
    · split
      · exact f _ _ _
      · rfl
    · rfl
  have tf : ∀ (s : State) n, (s.testFinished n).journal = s.journal := by
    intro s n; unfold State.testFinished; split
    · split <;> rfl
    · rfl
  have ch : ∀ (s : State) n w, (s.callHold n w).journal = s.journal := by
    intro s n w; unfold State.callHold; split
    · split <;> rfl
    · rfl
  have cq : ∀ (s : State) n w, (s.callHold? n w).journal = s.journal := by
    intro s n w; unfold State.callHold?; split
    · exact ch _ _ _
    · rfl
  have ue : ∀ (s : State) n q (k : Order → State), (∀ o, (k o).journal = s.journal) → (s.unitEnd n q k).journal = s.journal := by
    intro s n q k hk; unfold State.unitEnd; split
    · split
      · exact hk _
      · rfl
    · rfl
  unfold State.reportUnit
  split
  · split
    · split
      · rfl
      · exact ue _ _ _ _ fun _ => tf _ _
    · refine ue _ _ _ _ fun _ => ?_
      dsimp only; split
      · rw [so, tf]; rfl
      · rw [tf]; split
        · rfl
        · rw [ch]; rfl
    · refine ue _ _ _ _ fun _ => ?_
      dsimp only; split
      · rw [tf, cq]; rfl
      · rw [so, tf, cq]; rfl
  · rfl

/-! ## What the Journal and the Order Table do depends on their own state alone -/

/-- A place given back changes the Journal by the Journal alone. -/
theorem State.giveBack_journal_congr {s t : State} (h : s.journal = t.journal) (a : Asker) :
    (s.giveBack a).journal = (t.giveBack a).journal := by
  have j : ∀ {s t : State}, s.journal = t.journal → s.judgeHigh.journal = t.judgeHigh.journal := by
    intro s t h; unfold State.judgeHigh; rw [h]; split
    · split
      · exact h
      · show { s.journal with highNoted := true } = { t.journal with highNoted := true }; rw [h]
    · show { s.journal with highNoted := false } = { t.journal with highNoted := false }; rw [h]
  have w : ∀ {s t : State} q, s.journal = t.journal → (s.serveWaiter q).journal = (t.serveWaiter q).journal := by
    intro s t q h; unfold State.serveWaiter; rw [h]; split
    · refine j ?_
      show { s.journal.promise _ with waiters := s.journal.waiters.erase q } = _
      rw [h]; rfl
    · exact h
  have f : ∀ (l : List PortNo) {s t : State}, s.journal = t.journal →
      (l.foldl State.serveWaiter s).journal = (l.foldl State.serveWaiter t).journal := by
    intro l; induction l with
    | nil => exact fun h => h
    | cons q l ih => intro s t h; exact ih (w q h)
  have sv : ∀ {s t : State}, s.journal = t.journal → s.serveWaiters.journal = t.serveWaiters.journal := by
    intro s t h; unfold State.serveWaiters; rw [h]; exact f _ h
  unfold State.giveBack
  refine sv (j ?_)
  unfold State.updJournal
  simp only [h]

/-- A unit's end changes the orders by the orders alone. -/
theorem State.reportUnit_orders_congr {s t : State} (h : s.orders = t.orders) (q : PortNo) (x : Session) (o : Ending)
    (why : Option HoldReason) (later : Bool) :
    (s.reportUnit q x o why later).orders = (t.reportUnit q x o why later).orders := by
  have od : ∀ {s t : State} n, s.orders = t.orders → s.order? n = t.order? n := by
    intro s t n h; unfold State.order?; rw [h]
  have up : ∀ {s t : State} n f, s.orders = t.orders → (s.updOrder n f).orders = (t.updOrder n f).orders := by
    intro s t n f h; simp only [State.updOrder, h]
  have so : ∀ {s t : State} (n : Fin 16) q, s.orders = t.orders → (State.serveOne n s q).orders = (State.serveOne n t q).orders := by
    intro s t n q h
    have e : s.oldestEligible? n = t.oldestEligible? n := by unfold State.oldestEligible?; rw [h]
    unfold State.serveOne; rw [e]; split
    · have k : (s.setWaiting n ((s.waitingList n).erase q)).orders = (t.setWaiting n ((t.waitingList n).erase q)).orders := by
        simp only [State.setWaiting, State.waitingList, h]
      exact up _ _ k
    · exact h
  have sp : ∀ (n : Fin 16) (l : List PortNo) {s t : State}, s.orders = t.orders →
      (l.foldl (State.serveOne n) s).orders = (l.foldl (State.serveOne n) t).orders := by
    intro n l; induction l with
    | nil => exact fun h => h
    | cons q l ih => intro s t h; exact ih (so n q h)
  have sv : ∀ {s t : State} n, s.orders = t.orders → (s.serveOrder n).orders = (t.serveOrder n).orders := by
    intro s t n h; unfold State.serveOrder; rw [od n h]; split
    · split
      · unfold State.serveProfile State.waitingList; rw [h]; exact sp _ _ h
      · exact h
    · exact h
  have tf : ∀ {s t : State} n, s.orders = t.orders → (s.testFinished n).orders = (t.testFinished n).orders := by
    intro s t n h; unfold State.testFinished; rw [od n h]; split
    · split
      · exact up _ _ h
      · exact h
    · exact h
  have ch : ∀ {s t : State} n w, s.orders = t.orders → (s.callHold n w).orders = (t.callHold n w).orders := by
    intro s t n w h; unfold State.callHold; rw [od n h]; split
    · split
      · exact up _ _ h
      · exact h
    · exact h
  have cq : ∀ {s t : State} n w, s.orders = t.orders → (s.callHold? n w).orders = (t.callHold? n w).orders := by
    intro s t n w h; unfold State.callHold?; split
    · exact ch _ _ h
    · exact h
  have ue : ∀ {s t : State} n q (k l : Order → State), s.orders = t.orders → (∀ o, (k o).orders = (l o).orders) →
      (s.unitEnd n q k).orders = (t.unitEnd n q l).orders := by
    intro s t n q k l h hk; unfold State.unitEnd; rw [od n h]; split
    · split
      · exact hk _
      · exact h
    · exact h
  unfold State.reportUnit
  split
  · rename_i n _ _
    split
    · split
      · exact h
      · exact ue n q _ _ h fun _ => tf n (up n _ h)
    · refine ue n q _ _ h fun _ => ?_
      dsimp only; split
      · exact sv n (tf n (up n _ h))
      · refine tf n ?_
        split
        · exact up n _ h
        · exact ch n _ (up n _ h)
    · refine ue n q _ _ h fun _ => ?_
      dsimp only; split
      · exact tf n (cq n why (up n _ h))
      · exact sv n (tf n (cq n why (up n _ h)))
  · exact h

/-! ## The Key Store's part -/

/-- `t` is `s` with the holds of the session of port `p` on the slots of `l` dropped: a slot's holders count is lower by
as many as the list has of it. -/
structure Dropped (p : PortNo) (s t : State) (l : List SlotNo) : Prop extends Around p s t where
  orders : t.orders = s.orders
  journal : t.journal = s.journal
  table : t.profiles = s.profiles
  keys : t.keys = { s.keys with slots := t.keys.slots }
  counts : ∀ i, t.slot i = { s.slot i with holders := (s.slot i).holders - l.count i }

/-- With sound state groups, a hold dropped changes nothing but its slot's holders count and the session's list. -/
theorem Dropped.one (s : State) (h : s.StatesSound) (i : SlotNo) : Dropped p s (State.dropHold p s i) [i] := by
  unfold State.dropHold
  rw [h.readSlot]
  refine ⟨Around.trans ?_ (Around.updSession _ p _ fun _ => rfl), rfl, rfl, rfl, rfl, fun k => ?_⟩
  · exact Around.updSlot s i _ fun _ => rfl
  show (s.keys.slots.put i { s.slot i with holders := (s.slot i).holders - 1 }).look k = _
  rw [Bank.look_put]
  by_cases e : k = i
  · subst e; simp
  · have : [i].count k = 0 := by simp [List.count_eq_zero, e]
    simp only [e, this, if_false]; rfl

theorem Dropped.fold (s : State) (h : s.StatesSound) (l : List SlotNo) : Dropped p s (l.foldl (State.dropHold p) s) l := by
  induction l generalizing s with
  | nil => exact ⟨Around.refl s, rfl, rfl, rfl, rfl, fun _ => rfl⟩
  | cons i l ih =>
    have a := Dropped.one (p := p) s h i
    have b := ih _ (a.states h)
    refine ⟨a.toAround.trans b.toAround, b.orders.trans a.orders, b.journal.trans a.journal, b.table.trans a.table, ?_,
      fun k => ?_⟩
    · rw [List.foldl_cons, b.keys, a.keys]
    · rw [List.foldl_cons, b.counts k, a.counts k]
      simp only [List.count_cons, List.count_nil, Nat.zero_add, Nat.sub_sub]
      rw [Nat.add_comm]

/-! ## The end -/

/-- `m` is what the steps of R157 after the settlement make of `s`, up to the closing frame, when its session on port
`p` is `x` and ends with the outcome `o`. -/
structure BeforeClose (p : PortNo) (s m : State) (x : Session) (o : Ending) (why : Option HoldReason) (later : Bool) : Prop
    extends Around p s m where
  keys : m.keys = { s.keys with slots := m.keys.slots }
  counts : ∀ i, m.slot i = { s.slot i with holders := (s.slot i).holders - x.slotHolds.count i }
  table : ∀ n, m.profile n = { s.profile n with holders := (s.profile n).holders -
    (if x.profileHeld && x.profile.map ProfileCopy.number == some n then 1 else 0) }
  orders : m.orders = (State.reportUnit { s with orders :=
    { s.orders with waiting := Bank.mapAll (fun l => l.erase p) s.orders.waiting } } p x o why later).orders
  journal : m.journal = (if x.placeAccepted then
    (State.giveBack { s with journal := { s.journal with waiters := s.journal.waiters.erase p } } (.session p)).journal
    else { s.journal with waiters := s.journal.waiters.erase p })

/-- The steps of a session's end before its closing frame. -/
theorem State.beforeClose (s : State) (hs : s.StatesSound) {x : Session} (hx : s.session? p = some x) (o : Ending)
    (why : Option HoldReason) (later : Bool) :
    ∃ m : State, BeforeClose p s m x o why later
      ∧ ∀ r cause, s.closeSession p o r why later cause =
        (State.raisePort (if o = .refused then m.sendLast p .refuse (be 1 r.code)
          else m.sendLast p .close (endingBytes (o, r))) .sessionEnd p).updPort p (fun q => { q with
            keyArea := KeyArea.blank
            lastEnd := some (o, r)
            state := q.state.afterSession cause
            timerFrom := State.now (State.raisePort (if o = .refused then m.sendLast p .refuse (be 1 r.code)
              else m.sendLast p .close (endingBytes (o, r))) .sessionEnd p)
            session := none }) := by
  let a := s.leaveWaiters p
  let b := if x.placeAccepted then
      (a.updSession p (fun x => { x with placeAccepted := false })).giveBack (.session p) else a
  let c := b.leaveWaiting p
  let d := c.dropHolds p
  let e := match x.profileHeld, x.profile with
    | true, some c => d.updProfile c.number (fun f => { f with holders := f.holders - 1 })
    | _, _ => d
  have ab : Aside p s b ∧ b.orders = s.orders ∧ b.journal = (if x.placeAccepted then
      (State.giveBack { s with journal := { s.journal with waiters := s.journal.waiters.erase p } } (.session p)).journal
      else { s.journal with waiters := s.journal.waiters.erase p }) := by
    show Aside p s (if x.placeAccepted then _ else _) ∧ State.orders (if x.placeAccepted then _ else _) = _
      ∧ State.journal (if x.placeAccepted then _ else _) = _
    split
    · refine ⟨Aside.trans ?_ (Aside.giveBack _ _), State.giveBack_orders _ _, State.giveBack_journal_congr ?_ _⟩
      · refine Aside.trans ?_ (Aside.updSession _ p _ (fun _ => rfl) fun _ => rfl)
        exact Aside.journal s _
      · rfl
    · exact ⟨Aside.journal s _, rfl, rfl⟩
  have ac : Aside p s c := ab.1.trans (Aside.orders b _)
  have cd : Dropped p c d x.slotHolds := by
    have h := ac.holds
    rw [hx] at h
    show Dropped p c (c.dropHolds p) _
    unfold State.dropHolds
    rw [h]
    exact Dropped.fold c (ac.states hs) _
  have de : Around p d e ∧ e.keys = d.keys ∧ e.orders = d.orders ∧ e.journal = d.journal
      ∧ ∀ n, e.profile n = { d.profile n with holders := (d.profile n).holders -
        (if x.profileHeld && x.profile.map ProfileCopy.number == some n then 1 else 0) } := by
    have k : (∃ c, x.profileHeld = true ∧ x.profile = some c
        ∧ e = d.updProfile c.number (fun f => { f with holders := f.holders - 1 }))
        ∨ (e = d ∧ (x.profileHeld = false ∨ x.profile = none)) := by
      show (∃ c, _ ∧ _ ∧ (match x.profileHeld, x.profile with
        | true, some c => d.updProfile c.number (fun f => { f with holders := f.holders - 1 })
        | _, _ => d) = _) ∨ ((match x.profileHeld, x.profile with
        | true, some c => d.updProfile c.number (fun f => { f with holders := f.holders - 1 })
        | _, _ => d) = _ ∧ _)
      cases x.profileHeld <;> cases x.profile <;> simp
    generalize e = v at k
    obtain ⟨c, h1, h2, rfl⟩ | ⟨rfl, h⟩ := k
    · refine ⟨Around.updProfile d _ (· - 1), rfl, rfl, rfl, fun n => ?_⟩
      show (d.profiles.put c.number { d.profile c.number with holders := (d.profile c.number).holders - 1 }).look n = _
      rw [Bank.look_put, h1, h2]
      by_cases q : n = c.number
      · subst q; simp
      · have : ¬ c.number = n := fun z => q z.symm
        simp [q, this]; rfl
    · refine ⟨Around.refl _, rfl, rfl, rfl, fun n => ?_⟩
      obtain h | h := h <;> simp [h]
  have ef : Aside p e (e.reportUnit p x o why later) := Aside.reportUnit ..
  refine ⟨e.reportUnit p x o why later, ⟨?_, ?_, fun i => ?_, fun n => ?_, ?_, ?_⟩, fun r cause => ?_⟩
  · exact ((ac.toAround.trans cd.toAround).trans de.1).trans ef.toAround
  · rw [ef.keys, de.2.1, cd.keys, ac.keys]
  · show Bank.look (e.reportUnit p x o why later).keys.slots i = _
    have k : s.slot i = c.slot i := by show _ = c.keys.slots.look i; rw [ac.keys]; rfl
    rw [ef.keys, de.2.1, k]; exact cd.counts i
  · show Bank.look (e.reportUnit p x o why later).profiles n = _
    have k : s.profile n = d.profile n := by show _ = d.profiles.look n; rw [cd.table, ac.table]; rfl
    rw [ef.table, k]; exact de.2.2.2.2 n
  · refine State.reportUnit_orders_congr ?_ ..
    rw [de.2.2.1, cd.orders]
    have k : c.orders = { b.orders with waiting := Bank.mapAll (fun l => l.erase p) b.orders.waiting } := rfl
    rw [k, ab.2.1]
  · rw [State.reportUnit_journal, de.2.2.2.1, cd.journal]
    exact ab.2.2
  · simp only [State.closeSession, hx]
    rfl

/-- The settlement of R157 is what `Journal.withSettlement` puts into the run part. -/
theorem State.settleSpoiled_runQueue (s : State) (p : PortNo) (x : Session) (why : Reason) :
    (s.settleSpoiled p x why).journal = { s.journal with
      runQueue := s.journal.withSettlement p x (x.spoiledFor why s.stamp) } := by
  have e : x.loadedChecks = (x.items.filter (fun i => i.state == .loaded)).filterMap (·.check) := by
    unfold Session.loadedChecks
    rw [List.filterMap_filter]
    congr 1
    funext i
    simp only [beq_iff_eq]
  have w (t : Settlement) : s.journal.withSettlement p x t =
      if x.record.isNone && s.journal.issueQueued p then (s.journal.attach p t).runQueue
      else s.journal.runQueue ++ [.settle ⟨x.record, some p, t, false, none⟩] := rfl
  unfold State.settleSpoiled Session.spoiledFor
  rw [w, e]
  cases x.record with
  | some _ => rfl
  | none => cases s.journal.issueQueued p <;> rfl

/-- What a session's end is, whatever brought it about. -/
theorem State.endSession_over {x : Session} (hs : s.StatesSound) (hx : s.session? p = some x) (o : Ending) (r : Reason)
    (why : Option HoldReason) (settled later : Bool) (cause : EndCause) :
    SessionOver s (s.endSession p o r why settled later cause) p x
      ⟨o, r, why, x.device.isSome && !settled, later, (s.port p).state.afterSession cause⟩ := by
  have e : s.endSession p o r why settled later cause = State.closeSession
      (if x.device.isSome && !settled then
        State.settleSpoiled ((s.updSession p (fun x => { x with outcome := some (o, r), awaited := none })).updEngine
          (·.withdraw (portRequester p) (fun _ => true))) p x r
      else (s.updSession p (fun x => { x with outcome := some (o, r), awaited := none })).updEngine
          (·.withdraw (portRequester p) (fun _ => true))) p o r why later cause := by
    unfold State.endSession
    rw [hx]
  rw [e]
  generalize ha : s.updSession p (fun x => { x with outcome := some (o, r), awaited := none }) = a
  have sa : Aside p s a := by rw [← ha]; exact Aside.updSession _ p _ (fun _ => rfl) fun _ => rfl
  have xa : a.session? p = some { x with outcome := some (o, r), awaited := none } := by
    rw [← ha, State.session_updSession_self, hx]; rfl
  have oa : a.orders = s.orders ∧ a.journal = s.journal ∧ a.stamp = s.stamp := by rw [← ha]; exact ⟨rfl, rfl, rfl⟩
  let b := a.updEngine (·.withdraw (portRequester p) (fun _ => true))
  have sb : b.StatesSound := sa.states hs
  show SessionOver s (State.closeSession (if x.device.isSome && !settled then b.settleSpoiled p x r else b) p o r why later
    cause) p x _
  generalize hc : (if x.device.isSome && !settled then b.settleSpoiled p x r else b) = c
  have bc : Aside p b c ∧ c.orders = b.orders ∧ c.journal = { b.journal with
      runQueue := if x.device.isSome && !settled then b.journal.withSettlement p x (x.spoiledFor r b.stamp)
      else b.journal.runQueue } := by
    rw [← hc]
    split
    · exact ⟨Aside.settleSpoiled .., (b.settleSpoiled_journal p x r).2, b.settleSpoiled_runQueue p x r⟩
    · exact ⟨Aside.refl b, rfl, rfl⟩
  have xc : c.session? p = some { x with outcome := some (o, r), awaited := none } := by
    rw [← hc]
    split
    · unfold State.settleSpoiled
      simp only
      split
      · exact xa
      · split <;> exact xa
    · exact xa
  obtain ⟨m, cm, mc⟩ := State.beforeClose c (bc.1.states sb) xc o why later
  rw [mc r cause]
  clear mc hc e
  have bm : Around p b m := bc.1.toAround.trans cm.toAround
  have pm : ∀ q, m.port q = { s.port q with session := (m.port q).session } := fun q => by
    have hb : b.port q = a.port q := rfl
    rw [bm.ports q, hb, sa.ports q]
  have lm : m.link = { s.link with pending := m.link.pending } := by
    have hb : b.link = a.link := rfl
    rw [bm.link, hb, sa.link]
  obtain ⟨y, ym, yu⟩ : ∃ y, m.session? p = some y ∧ y.upcoming = x.upcoming := by
    have := bm.seq
    have xb : b.session? p = some { x with outcome := some (o, r), awaited := none } := xa
    rw [xb] at this
    cases hm : m.session? p with
    | none => rw [hm] at this; cases this
    | some y => rw [hm] at this; refine ⟨y, rfl, ?_⟩; injection this
  have sent : (if o = .refused then m.sendLast p .refuse (be 1 r.code) else m.sendLast p .close (endingBytes (o, r)))
      = m.transmit p (s.closingChars p x o r) := by
    have st : (m.port p).settings = (s.port p).settings := by rw [pm p]
    have yn : y.nextSeq = x.upcoming := yu
    unfold State.sendLast State.closingChars
    rw [ym, st]
    simp only [yn]
    split <;> rfl
  rw [sent]
  generalize hz : State.raisePort (m.transmit p (s.closingChars p x o r)) .sessionEnd p = z
  have zp : z.port p = { s.port p with
      session := (m.port p).session, sent := (s.port p).sent ++ [s.closingChars p x o r] } := by
    have k : z.port p = { m.port p with sent := (m.port p).sent ++ [s.closingChars p x o r] } := by
      rw [← hz]
      exact State.port_updPort_self m p (fun q : Port => { q with sent := q.sent ++ [s.closingChars p x o r] })
    rw [k, pm p]
  have zq : ∀ q, q ≠ p → z.port q = m.port q := fun q hq => by
    rw [← hz]
    exact State.port_updPort_ne m (fun q : Port => { q with sent := q.sent ++ [s.closingChars p x o r] }) hq
  have zl : z.link = m.link.raise (.port .sessionEnd p) := by rw [← hz]; rfl
  have zn : z.now = s.now := by show z.link.clock = _; rw [zl]; show m.link.clock = _; rw [lm]; rfl
  have zo : z.engine = m.engine ∧ z.orders = m.orders ∧ z.journal = m.journal ∧ z.profiles = m.profiles
      ∧ z.custody = m.custody ∧ z.entries = m.entries ∧ z.pins = m.pins ∧ z.pending = m.pending ∧ z.keys = m.keys := by
    rw [← hz]; exact ⟨rfl, rfl, rfl, rfl, rfl, rfl, rfl, rfl, rfl⟩
  clear hz sent
  have ck : c.keys = s.keys := bc.1.keys.trans (show b.keys = _ from sa.keys)
  have cp : c.profiles = s.profiles := bc.1.table.trans (show b.profiles = _ from sa.table)
  refine ⟨?_, fun q hq => ?_, ?_, ?_, ?_, fun i => ?_, ?_, ?_, ?_, fun n => ?_, ?_⟩
  · rw [State.port_updPort_self, zp, zn]
  · rw [State.port_updPort_ne _ _ hq, zq q hq]; exact pm q
  · show z.link.pending.getLsbD _ = true
    rw [zl]; exact LinkController.raise_pends _ _
  · show z.link = { s.link with pending := z.link.pending }
    rw [zl]; unfold LinkController.raise; rw [lm]
  · have hb : b.engine = a.engine.withdraw (portRequester p) (fun _ => true) := rfl
    show z.engine = _
    rw [zo.1, bm.engine, hb, sa.engine]
  · have k : s.slot i = c.slot i := by show _ = c.keys.slots.look i; rw [ck]; rfl
    show z.keys.slots.look i = _
    rw [zo.2.2.2.2.2.2.2.2, k]; exact cm.counts i
  · show z.keys = { s.keys with slots := z.keys.slots }
    rw [zo.2.2.2.2.2.2.2.2, cm.keys, ck]
  · show z.orders = _
    have hb : b.orders = a.orders := rfl
    rw [zo.2.1, cm.orders]
    unfold State.ordersAfter
    refine (State.reportUnit_orders_congr (t := { s with orders :=
      { s.orders with waiting := Bank.mapAll (fun l => l.erase p) s.orders.waiting } }) ?_ ..).trans ?_
    · simp only [bc.2.1, hb, oa.1]
    · unfold State.reportUnit
      cases x.unitHeld <;> cases x.order <;> cases o <;> try rfl
      show State.orders (if later then _ else _) = if later then _ else _
      split <;> rfl
  · show z.journal = _
    rw [zo.2.2.1, cm.journal]
    have cj : ({ c.journal with waiters := c.journal.waiters.erase p } : Journal) = { s.journal with
        runQueue := if x.device.isSome && !settled then s.journal.withSettlement p x (x.spoiledFor r s.stamp)
          else s.journal.runQueue
        waiters := s.journal.waiters.erase p } := by
      have hb : b.journal = a.journal := rfl
      have hs : b.stamp = a.stamp := rfl
      rw [bc.2.2, hb, hs, oa.2.1, oa.2.2]
    unfold State.journalAfter
    simp only
    split
    · exact State.giveBack_journal_congr cj _
    · exact cj
  · have k : s.profile n = c.profile n := by show _ = c.profiles.look n; rw [cp]; rfl
    show z.profiles.look n = _
    rw [zo.2.2.2.1, k]; exact cm.table n
  · exact ⟨zo.2.2.2.2.1.trans (bm.rest.1.trans sa.rest.1), zo.2.2.2.2.2.1.trans (bm.rest.2.1.trans sa.rest.2.1),
      zo.2.2.2.2.2.2.1.trans (bm.rest.2.2.1.trans sa.rest.2.2.1),
      zo.2.2.2.2.2.2.2.1.trans (bm.rest.2.2.2.trans sa.rest.2.2.2)⟩

end Sys2Proof.Machine
end

