-- ==== Sys2Proof/Laws/Requests.lean ====
section
/-! SUPPORT. What the owner of each request can do once the Link Controller has handed it the request, and what a
zeroization and the start-up do: it follows in the sense of `Follows`. -/

namespace Sys2Proof.Machine

variable {s₀ s : State}

/-! ## Shared steps -/

theorem Follows.withSlot (h : Follows s₀ s) (ps : List Byte) (k : SlotNo → State → State)
    (hk : ∀ i, Follows s₀ (k i s)) : Follows s₀ (s.withSlot ps k) := by
  unfold State.withSlot
  split
  · exact h.refuse _
  · split
    · exact h.refuse _
    · exact hk _

theorem Follows.underWindow (h : Follows s₀ s) (k : Nat × Nat → State → State) (hk : ∀ w, Follows s₀ (k w s)) :
    Follows s₀ (s.underWindow k) := by
  unfold State.underWindow
  split
  · exact hk _
  · exact h.refuse _

theorem State.askCustody_slots (s : State) (n : Nat) : (s.askCustody n).2.keys = s.keys := by
  unfold State.askCustody State.noteRefusal State.judgeHigh State.raiseWhen
  split
  · simp only; split <;> (try split) <;> rfl
  · simp only; split <;> rfl

/-- With a place accepted the request goes on from a state that follows and has the same slots; else it is refused
JOURNAL-FULL. -/
theorem Follows.withPlace (h : Follows s₀ s) (k : State → State)
    (hk : ∀ t, Follows s₀ t → t.keys = s.keys → Follows s₀ (k t)) : Follows s₀ (s.withPlace k) := by
  have a := h.askCustody 1
  have b := s.askCustody_slots 1
  unfold State.withPlace
  split
  · rename_i e; rw [e] at a b; exact hk _ a b
  · rename_i e; exact (a.pair e).refuse _

/-! ## SLOT -/

theorem Follows.listSlots (is : List SlotNo) (out : List Byte) (h : Follows s₀ s) :
    Follows s₀ (State.listSlots is out s) := by
  induction is generalizing s out with
  | nil => exact h.answer _ _
  | cons i is ih => exact ih _ (h.readSlot i _)

theorem Follows.verifyIs (h : Follows s₀ s) (v : Option VerifyRequest) :
    Follows s₀ { s with keys := { s.keys with verify := v } } :=
  h.trans (.same rfl rfl rfl rfl fun k => { k with keys := ⟨k.keys.slots, k.keys.corrected⟩ })

theorem Follows.slotVerify (h : Follows s₀ s) (i : SlotNo) : Follows s₀ (s.slotVerify i) := by
  have r := h.readSlot i [.check]
  unfold State.slotVerify
  simp only
  split
  · exact r.refuse _
  · split
    · exact r.refuse _
    · rename_i b
      exact (r.verifyIs _).submit _ fun _ => by simpa using b

theorem Follows.slotSuspend (h : Follows s₀ s) (i : SlotNo) : Follows s₀ (State.slotSuspend i s) := by
  have r := h.readSlot i changeGroups
  unfold State.slotSuspend
  simp only
  split
  · exact r.refuse _
  · refine r.withPlace _ fun t f _ => Follows.answer (Follows.queueCustody (f.updSlot i _ fun k => ?_) _ _ _) _ _
    exact k.withState _ (by simp) _

theorem Follows.slotResume (h : Follows s₀ s) (i : SlotNo) : Follows s₀ (State.slotResume i s) := by
  have r := h.readSlot i changeGroups
  refine h.underWindow _ fun w => ?_
  simp only
  split
  · exact r.refuse _
  · refine r.withPlace _ fun t f _ => Follows.answer (Follows.queueCustody (f.updSlot i _ fun k => ?_) _ _ _) _ _
    exact k.withState _ (by simp) _

/-- The range record SLOT.RANGE writes is lawful (R13). -/
theorem RangeRequest.record_ok (r : RangeRequest) (h : r.ok = true) : r.record.Ok := by
  simp only [RangeRequest.ok, Bool.and_eq_true, decide_eq_true_eq] at h
  constructor
  · exact Nat.le_refl _
  · show r.first ≤ r.last + 1
    omega

theorem State.abandonSlot_other (s : State) {i k : SlotNo} (hk : k ≠ i) : (s.abandonSlot i).slot k = s.slot k := by
  unfold State.abandonSlot
  simp only
  split
  · rw [State.updSlot, State.slot_setSlot_ne _ _ hk, State.readSlotWords_other s [] hk]
  · rw [State.readSlotWords_other s [] hk]

theorem State.answerIntake_keys (s : State) (w : PadReason) : (s.answerIntake w).keys = s.keys := by
  unfold State.answerIntake
  simp only
  have : ∀ (es : List IntakeEntry) (t : State),
      (es.foldl (fun s e => s.sendResult e.line typeComponent (some w)) t).keys = t.keys := by
    intro es
    induction es with
    | nil => intro t; rfl
    | cons e es ih => intro t; rw [List.foldl_cons, ih]; rfl
  rw [this]; rfl

/-- A failed assembly changes no slot but its own (R4, R42). -/
theorem State.failAssembly_other (s : State) (w : AssemblyEnd) (k : SlotNo)
    (h : s.custody.assembly.map (·.slot) ≠ some k) : (s.failAssembly w).slot k = s.slot k := by
  unfold State.failAssembly
  split
  · rfl
  · rename_i a ha
    have hk : k ≠ a.slot := fun e => h (by simp [ha, e])
    have o := s.abandonSlot_other hk
    unfold State.slot at o ⊢
    simpa only [State.answerIntake_keys, State.assemblyOver, State.updCustody_keys, State.raiseGlobal_keys,
      State.queueCustody, State.enqueue, State.updJournal_keys, State.updEngine_keys] using o

/-- A read of one slot changes no other slot (R7). -/
theorem State.readSlot_other (s : State) {i k : SlotNo} (gs : List SlotGroup) (hk : k ≠ i) :
    (s.readSlot i gs).slot k = s.slot k := by
  have o := s.readSlotWords_other gs hk
  have c : (s.readSlotWords i gs).custody = s.custody := by
    unfold State.readSlotWords
    simp only
    split
    · simp
    · split
      · split <;> simp
      · simp
  unfold State.readSlot
  simp only
  split
  · rename_i hc
    simp only [Bool.and_eq_true, beq_iff_eq] at hc
    rw [State.failAssembly_other _ _ _ (by rw [hc.2]; simpa using fun e => hk e.symm), o]
  · exact o

theorem State.readSlots_other (s : State) (gs : List SlotGroup) (k : SlotNo) (is : List SlotNo) (hk : k ∉ is) :
    (is.foldl (fun s i => s.readSlot i gs) s).slot k = s.slot k := by
  induction is generalizing s with
  | nil => rfl
  | cons i is ih =>
    rw [List.foldl_cons, ih _ (fun h => hk (List.mem_cons_of_mem _ h)),
      State.readSlot_other _ _ (fun e => hk (by simp [e]))]

theorem Follows.slotRange (h : Follows s₀ s) (q : RangeRequest) (i : SlotNo) : Follows s₀ (State.slotRange q i s) := by
  have r := h.readSlot i changeGroups
  refine h.underWindow _ fun w => ?_
  simp only
  split
  · exact r.refuse _
  · rename_i hx
    split
    · exact r.refuse _
    · rename_i hq
      have f : Follows s₀ ((otherSlots i).foldl (fun s k => s.readSlot k [.range]) (s.readSlot i changeGroups)) :=
        r.foldl _ (fun s k => (Follows.refl s).readSlot k _) _
      have e := (s.readSlot i changeGroups).readSlots_other [.range] i (otherSlots i) (by simp [otherSlots])
      split
      · exact f.refuse _
      · refine f.withPlace _ fun t g hk => Follows.answer (Follows.raiseWhen (Follows.queueCustody
          (g.updSlot i _ fun _ => ?_) _ _ _) _ _) _ _
        have et : t.slot i = (s.readSlot i changeGroups).slot i := by
          rw [← e]; unfold State.slot; rw [hk]
        rw [← et] at hx
        simp only [Bool.or_eq_true, Bool.and_eq_true, decide_eq_true_eq, not_or, not_and, ne_eq, Classical.not_not] at hx
        refine ⟨?_, fun _ => hx.1.2, fun _ => ?_⟩
        · intro y ey
          cases ey
          exact q.record_ok (by simpa using hq)
        · have := hx.1.1
          constructor <;> intro hs <;> simp_all

theorem Follows.slotErase (h : Follows s₀ s) (i : SlotNo) : Follows s₀ (State.slotErase i s) := by
  have r := h.readSlot i changeGroups
  refine h.underWindow _ fun w => ?_
  simp only
  split
  · exact r.refuse _
  · refine r.withPlace _ fun t f _ => Follows.answer ?_ _ _
    have u := fun g => (f.updSlot i (fun _ => Slot.blank) fun _ => Slot.Ok.noRange rfl).queueCustody .slotErased w g
    split
    · exact (u _).failAssembly _
    · exact u _

/-! ## CUST and the custodian lines -/

theorem Slot.Ok.opened {x : Slot} (h : x.Ok) (hs : x.state = .empty) (r : Role) (k : KeyKind) (l : List Byte) :
    (x.opened r k l).Ok := by
  refine Slot.Ok.noRange ?_
  cases hr : x.range with
  | none => exact hr
  | some v => exact absurd hs (h.state (by simp [hr])).1

theorem Follows.custOpen (h : Follows s₀ s) (q : OpenRequest) : Follows s₀ (State.custOpen q s) := by
  unfold State.custOpen
  split
  · exact h.refuse _
  · refine h.underWindow _ fun w => ?_
    split
    · exact h.refuse _
    · have a := h.askCustody 2
      split
      · rename_i e; exact (a.pair e).refuse _
      · rename_i e
        have r := (a.pair e).readSlotWords q.slot []
        simp only
        split
        · exact (r.giveBack _).refuse _
        · rename_i hx
          simp only [Bool.or_eq_true, decide_eq_true_eq, not_or, ne_eq, Classical.not_not] at hx
          refine Follows.answer (Follows.queueCustody (Follows.updCustody (r.updSlot _ _ fun k => k.opened hx.1 _ _ _) _
            fun k => ?_) _ _ _) _ _
          exact k.of rfl rfl (.inl rfl) (List.Sublist.refl _)

theorem Follows.barWindow (h : Follows s₀ s) (b : Bool) :
    Follows s₀ (s.updCustody fun c => { c with reopenBar := b }) :=
  h.updCustody _ fun k => k.of rfl rfl (.inl rfl) (List.Sublist.refl _)

/-- A custodian's presence begun, refreshed or replaced (R29): the window, if it stays OPEN, still names the two
custodians present. -/
theorem CustodyUnit.Ok.present {c : CustodyUnit} (h : c.Ok) (l : Line) (x : CustodianLine) (n : Nat)
    (hx : x.presence.map (·.custodian) = some n) (hn : 1 ≤ n ∧ n ≤ 99) (ho : c.presentOn (otherLine l) ≠ some n)
    (hw : c.presentOn l = some n ∨ c.window = none) : (c.setLine l x).Ok := by
  have e := c.presentOn_setLine l
  refine ⟨fun m k hk => ?_, fun k ha hb => ?_, fun w hv => ?_, by simpa using h.intake⟩
  · rw [e] at hk
    split at hk
    · rw [hx] at hk; cases hk; exact hn
    · exact h.number m k hk
  · rw [e] at ha hb
    cases l with
    | a =>
      simp only [if_true, reduceCtorEq, if_false] at ha hb
      rw [hx] at ha; cases ha; exact ho hb
    | b =>
      simp only [if_true, reduceCtorEq, if_false] at ha hb
      rw [hx] at hb; cases hb; exact ho ha
  · rw [CustodyUnit.setLine_window] at hv
    rcases hw with hw | hw
    · obtain ⟨p, q⟩ := h.window w hv
      rw [e, e]
      cases l with
      | a => simp only [if_true, reduceCtorEq, if_false]; exact ⟨by rw [hx, ← hw, p], q⟩
      | b => simp only [if_true, reduceCtorEq, if_false]; exact ⟨p, by rw [hx, ← hw, q]⟩
    · rw [hw] at hv; cases hv

theorem Follows.takePresence (h : Follows s₀ s) (l : Line) (n : Nat) (hn : 1 ≤ n ∧ n ≤ 99) :
    Follows s₀ (State.takePresence l n s) := by
  unfold State.takePresence
  split
  · exact h.sendResult _ _ _
  · split
    · exact h.sendResult _ _ _
    · rename_i hs
      have hs : s.custody.presentOn (otherLine l) ≠ some n := hs
      simp only
      refine Follows.sendResult (Follows.considerWindow ?_ _) _ _ _
      by_cases hb : s.present? l = some n
      · have hb' : s.custody.presentOn l = some n := hb
        simp only [hb, ne_eq, not_true_eq_false, decide_false, Bool.false_eq_true, if_false]
        refine h.custodyIs _ fun k => ?_
        exact k.present l _ n rfl hn hs (.inl hb')
      · obtain ⟨c1, c2, -⟩ := s.endPresence_custody l
        have u := (h.endPresence l).barWindow false
        simp only [hb, ne_eq, not_false_eq_true, decide_true, if_true]
        refine u.custodyIs _ fun k => k.present l _ n rfl hn ?_ (.inr ?_)
        · show (s.endPresence l).custody.presentOn (otherLine l) ≠ some n
          rw [c2 _ (by cases l <;> simp [otherLine])]; exact hs
        · cases hv : (s.endPresence l).custody.window with
          | none => exact hv
          | some w =>
            obtain ⟨p, q⟩ := k.window w hv
            have c1' : ((s.endPresence l).updCustody fun c => { c with reopenBar := false }).custody.presentOn l = none := c1
            cases l
            · rw [c1'] at p; cases p
            · rw [c1'] at q; cases q

/-! ## PROF and MATCH -/

theorem Follows.judgeSlot (h : Follows s₀ s) (n : Nat) (r : Role) (k : Option KeyKind) :
    Follows s₀ (s.judgeSlot n r k).2 := by
  unfold State.judgeSlot
  split
  · exact h
  · exact h.readSlot _ _

theorem Follows.judgeHeading (h : Follows s₀ s) (r : ProfileRequest) : Follows s₀ (r.judgeHeading s).2 := by
  have j := h.judgeSlot r.transport .transport none
  unfold ProfileRequest.judgeHeading
  split
  · exact h
  · split
    · rename_i e; exact j.pair e
    · rename_i e; exact (j.pair e).judgeSlot _ _ _

theorem Follows.judgeItem (h : Follows s₀ s) (i : ItemRequest) (es : List ItemRequest) : Follows s₀ (i.judge es s).2 := by
  unfold ItemRequest.judge
  split
  · exact h
  · split
    · exact h
    · split
      · exact h
      · split
        · exact h
        · split
          · exact h.judgeSlot _ _ _
          · exact h

theorem Follows.judgeItems (n : Nat) (es is : List ItemRequest) (h : Follows s₀ s) :
    Follows s₀ (judgeItems n es is s).2 := by
  induction is generalizing n es s with
  | nil => exact h
  | cons i is ih =>
    have j := h.judgeItem i es
    unfold Machine.judgeItems
    split
    · rename_i e; exact j.pair e
    · rename_i e; exact ih _ _ (j.pair e)

theorem Follows.judgeProfile (h : Follows s₀ s) (r : ProfileRequest) : Follows s₀ (r.judge s).2 := by
  have j := h.judgeHeading r
  unfold ProfileRequest.judge
  split
  · rename_i e; exact j.pair e
  · rename_i e
    have i := Follows.judgeItems 1 [] r.items (j.pair e)
    split
    · rename_i e'; exact i.pair e'
    · rename_i e'; exact i.pair e'

theorem Follows.profWrite (h : Follows s₀ s) (n : Fin 16) (r : ProfileRequest) : Follows s₀ (State.profWrite n r s) := by
  have p := h.readProfileState n
  refine h.underWindow _ fun w => ?_
  simp only
  split
  · exact p.refuse _
  · have j := p.judgeProfile r
    split
    · rename_i e; exact (j.pair e).answer _ _
    · rename_i e
      exact (j.pair e).withPlace _ fun t f _ =>
        Follows.answer (Follows.queueCustody (f.updProfile n _ fun _ _ => rfl) _ _ _) _ _

theorem Follows.profDelete (h : Follows s₀ s) (n : Fin 16) : Follows s₀ (State.profDelete n s) := by
  have p := h.readProfileState n
  refine h.underWindow _ fun w => ?_
  simp only
  split
  · exact p.refuse _
  · split
    · exact p.refuse _
    · refine p.withPlace _ fun t f _ => Follows.answer (Follows.queueCustody (f.updProfile n _ fun _ => ?_) _ _ _) _ _
      exact fun x => by cases x

theorem Follows.matchWrite (h : Follows s₀ s) (n : Fin 32) (ps : List Byte) : Follows s₀ (State.matchWrite n ps s) := by
  have r := h.readEntry n false
  refine h.underWindow _ fun w => ?_
  simp only
  split
  · exact r.refuse _
  · split
    · exact r.refuse _
    · refine r.withPlace _ fun t f _ => Follows.answer (Follows.queueCustody (f.setEntry n _ fun _ => ?_) _ _ _) _ _
      exact fun x => by cases x

theorem Follows.matchEnable (h : Follows s₀ s) (n : Fin 32) : Follows s₀ (State.matchEnable n s) := by
  have r := h.readEntry n true
  refine h.underWindow _ fun w => ?_
  simp only
  split
  · exact r.refuse _
  · rename_i hx
    refine r.withPlace _ fun t f _ => Follows.answer (Follows.queueCustody (f.setEntry n _ fun _ => ?_) _ _ _) _ _
    simp only [Bool.or_eq_true, Bool.not_eq_true', not_or, Bool.not_eq_false, Bool.not_eq_true] at hx
    exact fun _ => ⟨hx.1.1, hx.2⟩

theorem Follows.matchDisable (h : Follows s₀ s) (n : Fin 32) : Follows s₀ (State.matchDisable n s) := by
  have r := h.readEntry n true
  unfold State.matchDisable
  simp only
  split
  · exact r.refuse _
  · refine r.withPlace _ fun t f _ => Follows.answer (Follows.queueCustody (f.setEntry n _ fun _ => ?_) _ _ _) _ _
    exact fun x => by cases x

/-! ## ORD -/

theorem Follows.withOrder (h : Follows s₀ s) (ps : List Byte) (k : Order → State → State)
    (hk : ∀ o, s.order? o.number = some o → Follows s₀ (k o s)) : Follows s₀ (s.withOrder ps k) := by
  unfold State.withOrder State.withNumber
  simp only
  split
  · exact h.refuse _
  · split
    · exact h.refuse _
    · rename_i o e
      refine hk o ?_
      have := List.find?_some e
      simp only [beq_iff_eq] at this
      rw [this]; exact e

theorem Order.Ok.placed (n : Nat) (p : Fin 16) (q l k : Nat) (hn : 1 ≤ n ∧ n ≤ 65535) (hl : l ≤ 99) :
    (Order.placed n p q l k).Ok :=
  ⟨by simp [Order.placed], by simp [Order.placed], hn, hl, ⟨rfl, rfl⟩⟩

theorem Follows.addOrder (h : Follows s₀ s) (n : Nat) (p : Fin 16) (q l : Nat) (hn : 1 ≤ n ∧ n ≤ 65535) (hl : l ≤ 99)
    (hd : (s.order? n).isSome = false) (ht : s.orders.orders.length < 24) (hp : s.orders.placements < 0xFFFFFFFF) :
    Follows s₀ { s with orders := { s.orders with
      placements := s.orders.placements + 1
      orders := s.orders.orders ++ [Order.placed n p q l (s.orders.placements + 1)] } } := by
  refine h.trans (.same rfl rfl rfl rfl fun k => { k with orders := ?_ })
  refine ⟨?_, ?_, hp, ?_⟩
  · simp only [List.length_append, List.length_cons, List.length_nil]; omega
  · simp only [List.map_append, List.map_cons, List.map_nil]
    refine List.nodup_append.mpr ⟨k.orders.numbers, by simp, fun a ha b hb => ?_⟩
    simp only [List.mem_singleton] at hb
    obtain ⟨o, ho, rfl⟩ := List.mem_map.mp ha
    subst hb
    intro e
    simp only [State.order?, Option.isSome_eq_false_iff, Option.isNone_iff_eq_none, List.find?_eq_none] at hd
    exact hd o ho (by simpa using e)
  · intro o ho
    rcases List.mem_append.mp ho with ho | ho
    · exact k.orders.orders o ho
    · simp only [List.mem_singleton] at ho
      subst ho
      exact Order.Ok.placed _ _ _ _ _ hn hl

@[simp] theorem State.readProfileState_orders (s : State) (i : Fin 16) : (s.readProfileState i).orders = s.orders := by
  unfold State.readProfileState State.readProfileWords State.countCorrected
  simp only
  split <;> (try split) <;> (try split) <;> (try split) <;> rfl

theorem Follows.ordPlace (h : Follows s₀ s) (n : Nat) (ps : List Byte) (hn : 1 ≤ n ∧ n ≤ 65535) :
    Follows s₀ (State.ordPlace n ps s) := by
  unfold State.ordPlace
  simp only
  split
  · exact h.refuse _
  · rename_i p _
    split
    · exact h.refuse _
    · rename_i hq
      split
      · exact h.refuse _
      · rename_i hd
        split
        · exact h.refuse _
        · rename_i ht
          have r := h.readProfileState p
          split
          · exact r.refuse _
          · exact r.refuse _
          · simp only [Bool.or_eq_true, decide_eq_true_eq, not_or, Nat.not_le, Nat.not_lt] at hq ht
            refine Follows.answer (Follows.serveProfile (r.addOrder n p _ _ hn (by omega) ?_ ?_ ?_) _) _ _
            · unfold State.order?; rw [State.readProfileState_orders]
              simpa [State.order?] using hd
            · rw [State.readProfileState_orders]; exact ht.1
            · rw [State.readProfileState_orders]; exact ht.2

theorem Order.amended_balanced (o : Order) (h : o.Balanced) (q l : Nat) : (o.amended q l).Balanced := by
  refine ⟨?_, h.holders⟩
  simp only [Order.amended, Order.amendedQuantity, Order.floor, Order.committed]; omega

theorem Order.aborted_balanced (o : Order) (h : o.Balanced) : o.aborted.Balanced := by
  have a := h.sum
  refine ⟨?_, h.holders⟩
  simp only [Order.aborted]; omega

theorem Follows.ordAmend (h : Follows s₀ s) (ps : List Byte) (o : Order) : Follows s₀ (State.ordAmend ps o s) := by
  unfold State.ordAmend
  simp only
  split
  · exact h.refuse _
  · rename_i hl
    split
    · exact h.refuse _
    · have u := Follows.testFinished (h.updOrder o.number (·.amended (number ps 2 2) (number ps 4 1))
        (fun x k => ⟨k.hold, k.queued, k.number, Nat.le_of_not_lt hl, x.amended_balanced k.balanced _ _⟩)) o.number
      refine Follows.answer ?_ _ _
      split
      · exact u.serveOrder _
      · exact u

theorem Follows.ordHold (h : Follows s₀ s) (o : Order) : Follows s₀ (State.ordHold o s) := by
  unfold State.ordHold
  split
  · exact Follows.answer (h.updOrder _ _ fun _ k => k.hold_ _) _ _
  · exact h.refuse _

theorem Order.Ok.released {o : Order} (h : o.Ok) : o.released.Ok := by
  refine ⟨?_, ?_, h.number, h.spoilLimit, ⟨h.balanced.sum, h.balanced.holders⟩⟩
  · simp only [Order.released]; split <;> (try split) <;> simp
  · simp only [Order.released]; split <;> (try split) <;> simp_all

theorem Follows.ordRelease (h : Follows s₀ s) (o : Order) : Follows s₀ (State.ordRelease o s) := by
  unfold State.ordRelease
  split
  · exact h.refuse _
  · exact Follows.answer (Follows.serveOrder (Follows.testFinished (h.updOrder _ Order.released fun _ k => k.released) _) _) _ _

theorem Follows.ordAbort (h : Follows s₀ s) (o : Order) : Follows s₀ (State.ordAbort o s) := by
  unfold State.ordAbort
  split
  · exact h.refuse _
  · refine Follows.answer (Follows.foldl _ (fun s p => (Follows.refl s).tell _) _ (Follows.testFinished
      (h.updOrder o.number Order.aborted fun x k => ?_) _)) _ _
    exact ⟨by simp [Order.aborted], by simp [Order.aborted], k.number, k.spoilLimit, x.aborted_balanced k.balanced⟩

theorem Follows.ordRetire (h : Follows s₀ s) (o : Order) : Follows s₀ (State.ordRetire o s) := by
  unfold State.ordRetire
  split
  · exact h.refuse _
  · refine Follows.answer (Follows.trans h ?_) _ _
    refine .same rfl rfl rfl rfl fun k => { k with orders := ?_ }
    have sub : (s.orders.orders.filter fun x => x.number != o.number).Sublist s.orders.orders := List.filter_sublist
    exact ⟨Nat.le_trans sub.length_le k.orders.size, (sub.map _).nodup k.orders.numbers, k.orders.placements,
      fun x hx => k.orders.orders x (sub.mem hx)⟩

/-! ## PORT -/

theorem Follows.withPort (h : Follows s₀ s) (ps : List Byte) (k : PortNo → State → State) (hk : ∀ p, Follows s₀ (k p s)) :
    Follows s₀ (s.withPort ps k) := by
  unfold State.withPort
  split
  · exact h.refuse _
  · exact hk _

theorem Follows.portPause (h : Follows s₀ s) (p : PortNo) : Follows s₀ (State.portPause p s) := by
  unfold State.portPause
  split
  · exact h.refuse _
  · exact h.refuse _
  · exact h.refuse _
  · refine Follows.answer ?_ _ _
    unfold State.pauseWaiting
    split
    · split
      · exact Follows.endUnnumbered (h.portFrame p _) ..
      · exact h.portFrame p _
    · exact h.portFrame p _
  · exact h.answer _ _
  · exact Follows.answer (h.portFrame p _) _ _

theorem Follows.portResume (h : Follows s₀ s) (p : PortNo) : Follows s₀ (State.portResume p s) := by
  unfold State.portResume
  split
  · exact Follows.answer (h.portFrame p _) _ _
  · exact Follows.answer (h.portFrame p _) _ _
  · exact h.refuse _

theorem Follows.portReadmit (h : Follows s₀ s) (p : PortNo) : Follows s₀ (State.portReadmit p s) := by
  unfold State.portReadmit
  split
  · exact Follows.answer (h.portFrame p _) _ _
  · exact h.refuse _

theorem Follows.portReset (h : Follows s₀ s) (p : PortNo) : Follows s₀ (State.portReset p s) := by
  have i := h.interrupt p .reset .reset
  unfold State.portReset
  simp only
  refine Follows.answer ?_ _ _
  split
  · exact i
  · exact i.portFrame p _

/-- The settings PORT.SET takes lie in their ranges (R121). -/
theorem Settings.ofRequest_ok (ps : List Byte) (h : settingsOk ps = true) : (Settings.ofRequest ps).Ok := by
  simp only [settingsOk, Bool.and_eq_true, decide_eq_true_eq] at h
  refine ⟨h.1.1.1.2, ?_, ?_, ?_⟩ <;> simp only [Settings.ofRequest, clamp] <;> omega

/-! ## Zeroization and the start (R9, R23 to R25, R181, R182) -/

theorem Follows.slotsAll (h : Follows s₀ s) (f : Slot → Slot) (z : Bool) (hf : ∀ x, x.Ok → (f x).Ok) :
    Follows s₀ { s with keys := { s.keys with slots := Bank.mapAll f s.keys.slots, zeroizing := z } } :=
  h.trans (.same rfl rfl rfl rfl fun k => { k with
    keys := ⟨fun i => by simpa using hf _ (k.keys.slots i), k.keys.corrected⟩ })

theorem Follows.zeroizeStore (h : Follows s₀ s) : Follows s₀ s.zeroizeStore := by
  unfold State.zeroizeStore
  dsimp only
  refine Follows.raiseGlobal (Follows.updEngine (h.slotsAll Slot.zeroized true fun _ _ => Slot.Ok.noRange rfl) _ ?_) _
  exact fun k => ⟨k.completed, k.kept⟩

theorem Follows.zeroizeVerify (h : Follows s₀ s) : Follows s₀ s.zeroizeVerify := by
  unfold State.zeroizeVerify
  split
  · split
    · exact (h.withdraw _ _).verifyOver.refuse _
    · exact h
  · exact h

theorem Follows.zeroizeCustody (h : Follows s₀ s) : Follows s₀ s.zeroizeCustody :=
  ((((h.endPresence .a).endPresence .b).closeWindow false).barWindow false |>.failAssembly _).answerIntake _

theorem Follows.zeroizeSessions (h : Follows s₀ s) : Follows s₀ s.zeroizeSessions :=
  h.foldl _ (fun s p => (Follows.refl s).interrupt p _ _) _

theorem Follows.zeroize (h : Follows s₀ s) : Follows s₀ s.zeroize := by
  unfold State.zeroize
  simp only
  split
  · exact h.zeroizeStore
  · exact h.zeroizeStore.zeroizeVerify.zeroizeCustody.holdZeroized.zeroizeSessions.queueZeroized

theorem Follows.zeroizeEnds (h : Follows s₀ s) : Follows s₀ s.zeroizeEnds := by
  unfold State.zeroizeEnds
  exact Follows.updEngine (h.slotsAll _ false fun x k => k.mem _) _ fun k => ⟨k.completed, k.kept⟩

@[simp] theorem Port.stopped_settings (q : Port) : q.stopped.settings = q.settings := rfl
@[simp] theorem Port.stopped_state (q : Port) : q.stopped.state = q.state := rfl
@[simp] theorem Port.stopped_keyArea (q : Port) : q.stopped.keyArea = KeyArea.blank := rfl
@[simp] theorem Port.stopped_session (q : Port) : q.stopped.session = q.session.map Session.valuesErased := rfl
@[simp] theorem Session.valuesErased_phase (x : Session) : x.valuesErased.phase = x.phase := rfl
@[simp] theorem Session.valuesErased_device (x : Session) : x.valuesErased.device = none := rfl
@[simp] theorem Job.valuesErased_requester (j : Job) : j.valuesErased.requester = j.requester := rfl
@[simp] theorem Job.valuesErased_source (j : Job) : j.valuesErased.source = j.source := rfl
@[simp] theorem Job.valuesErased_isVerify (j : Job) : j.valuesErased.isVerify = j.isVerify := rfl
@[simp] theorem Engine.stopped_inFlight (e : Engine) : e.stopped.inFlight = e.inFlight := rfl
@[simp] theorem Engine.stopped_completed (e : Engine) : e.stopped.completed = e.completed := rfl
@[simp] theorem Engine.stopped_waiting (e : Engine) (r : Fin 17) :
    e.stopped.waiting.look r = (e.waiting.look r).map Job.valuesErased := Bank.look_mapAll ..
@[simp] theorem Engine.stopped_kept (e : Engine) (r : Fin 17) :
    e.stopped.kept.look r = (e.kept.look r).map Job.valuesErased := Bank.look_mapAll ..

/-- An engine stopped by a power-fail warning is lawful if it was. -/
theorem Engine.Ok.stopped {e : Engine} (h : e.Ok) : e.stopped.Ok where
  completed := h.completed
  kept j k := by
    rw [Engine.stopped_kept, Option.map_eq_some_iff] at k
    obtain ⟨i, hi, rfl⟩ := k
    exact h.kept i hi

/-- An engine with no job waiting or kept has none to erase. -/
theorem Engine.stopped_empty {e : Engine} (hw : e.waiting = Bank.fill 17 none) (hk : e.kept = Bank.fill 17 none) :
    e.stopped = { e with holdShutdown := true } := by
  simp [Engine.stopped, hw, hk]

/-- A port stopped by a power-fail warning is lawful if it was. -/
theorem Port.Ok.stopped {q : Port} (h : q.Ok) : q.stopped.Ok := h.of_eq rfl rfl rfl rfl rfl rfl

theorem Follows.stopVerify (h : Follows s₀ s) : Follows s₀ s.stopVerify := by
  unfold State.stopVerify
  split
  · split
    · exact h.verifyOver.refuse _
    · exact h
  · exact h

theorem Follows.stopRequest (h : Follows s₀ s) : Follows s₀ s.stopRequest := by
  unfold State.stopRequest
  split
  · exact Follows.refuse (h.frameJournal _) _
  · exact h

theorem Follows.markerIs (h : Follows s₀ s) (m : Marker) : Follows s₀ { s with keys := { s.keys with marker := m } } :=
  h.trans (.same rfl rfl rfl rfl fun k => { k with keys := ⟨k.keys.slots, k.keys.corrected⟩ })

theorem Slot.Ok.started {x : Slot} (h : x.Ok) : x.started.Ok := by
  unfold Slot.started
  split
  · exact Slot.Ok.noRange rfl
  · exact ⟨h.range, h.root, h.state⟩

theorem Follows.readStates (is : List SlotNo) (h : Follows s₀ s) :
    Follows s₀ (is.foldl (fun s i => s.readSlotWords i []) s) :=
  h.foldl _ (fun s i => (Follows.refl s).readSlotWords i []) is

theorem Follows.slotsStarted (h : Follows s₀ s) :
    Follows s₀ { s with keys := { s.keys with slots := Bank.mapAll Slot.started s.keys.slots } } :=
  h.slotsAll Slot.started s.keys.zeroizing fun _ k => k.started

theorem Follows.startSlots (h : Follows s₀ s) : Follows s₀ s.startSlots := by
  unfold State.startSlots
  generalize List.finRange 32 = is
  exact (h.readStates is).slotsStarted

theorem Follows.clearStore (h : Follows s₀ s) : Follows s₀ s.clearStore := by
  unfold State.clearStore
  refine Follows.raiseGlobal (Follows.trans h ?_) _
  refine .same rfl rfl rfl rfl fun k => { k with keys := ?_, profiles := ?_, entries := ?_ }
  · exact ⟨fun i => by simpa using Slot.Ok.noRange rfl, k.keys.corrected⟩
  · exact fun i => by rw [Bank.look_fill]; exact fun x => by cases x
  · exact fun i => by rw [Bank.look_fill]; exact fun x => by cases x

theorem Follows.storeCheck (h : Follows s₀ s) : Follows s₀ s.storeCheck.2 := by
  unfold State.storeCheck
  simp only
  split
  · exact Follows.startSlots ((h.countCorrected _).markerIs _)
  · exact (h.countCorrected _).clearStore

/-! ## The scan (R181, R182) -/

theorem insertRecord_mem (r x : HeldRecord) (l : List HeldRecord) : x ∈ insertRecord r l ↔ x = r ∨ x ∈ l := by
  induction l with
  | nil => simp [insertRecord]
  | cons y ys ih =>
    unfold insertRecord
    split
    · simp
    · simp only [List.mem_cons, ih]
      constructor
      · rintro (h | h | h) <;> simp [h]
      · rintro (h | h | h) <;> simp [h]

/-- A list of records kept in sequence order. -/
def InOrder (l : List HeldRecord) : Prop := l.Pairwise (fun a b => a.seq ≤ b.seq)

theorem insertRecord_inOrder (r : HeldRecord) (l : List HeldRecord) (h : InOrder l) : InOrder (insertRecord r l) := by
  induction l with
  | nil => exact List.pairwise_singleton _ _
  | cons y ys ih =>
    obtain ⟨hy, hys⟩ := List.pairwise_cons.mp h
    unfold insertRecord
    split
    · rename_i hr
      refine List.pairwise_cons.mpr ⟨fun x hx => ?_, h⟩
      rcases List.mem_cons.mp hx with hx | hx
      · rw [hx]; exact hr
      · exact Nat.le_trans hr (hy x hx)
    · rename_i hr
      refine List.pairwise_cons.mpr ⟨fun x hx => ?_, ih hys⟩
      rcases (insertRecord_mem r x ys).mp hx with hx | hx
      · rw [hx]; omega
      · exact hy x hx

/-- The held records stand in sequence order (R167). -/
theorem Journal.heldRecords_inOrder (j : Journal) : InOrder j.heldRecords := by
  unfold Journal.heldRecords
  dsimp only
  generalize j.numbered.flatMap _ = l
  induction l with
  | nil => exact List.Pairwise.nil
  | cons x xs ih => exact insertRecord_inOrder x _ ih

theorem InOrder.head_le_last {l : List HeldRecord} (h : InOrder l) {a b : HeldRecord} (ha : l.head? = some a)
    (hb : l.getLast? = some b) : a.seq ≤ b.seq := by
  cases l with
  | nil => cases ha
  | cons x xs =>
    simp only [List.head?_cons, Option.some.injEq] at ha
    subst ha
    rcases List.mem_cons.mp (List.mem_of_getLast? hb) with e | e
    · exact Nat.le_of_eq (by rw [e])
    · exact (List.pairwise_cons.mp h).1 b e

theorem Journal.largestMark_pos (j : Journal) : 1 ≤ j.largestMark := by
  unfold Journal.largestMark
  have : ∀ (gs : List Segment) (n : Nat), 1 ≤ n →
      1 ≤ gs.foldl (fun n g => if openedSound g.header && (g.held || g.state == .bad) then max n (firstMark g.header)
        else n) n := by
    intro gs
    induction gs with
    | nil => exact fun n h => h
    | cons g gs ih =>
      intro n h
      rw [List.foldl_cons]
      refine ih _ ?_
      split
      · exact Nat.le_trans h (Nat.le_max_left _ _)
      · exact h
  exact this _ 1 (Nat.le_refl _)

/-- The rebuilt counters are lawful, whatever they were (R182). -/
theorem Journal.Ok.rebuilt {j : Journal} (hf : j.flash = .idle) (hc : j.custodyOut ≤ 7)
    (hw : 16 ≤ j.warnLevel ∧ j.warnLevel ≤ 4096) (hp : j.programFailures ≤ 65535) (he : j.eraseFailures ≤ 65535) :
    j.rebuilt.Ok := by
  refine ⟨?_, ?_, ?_, hc, hw, hp, he⟩
  · show 1 ≤ (match j.newestFound with | some q => q + 1 | none => j.largestMark)
    split
    · omega
    · exact j.largestMark_pos
  · show ((j.heldRecords.head?.map (·.seq)).getD (match j.newestFound with | some q => q + 1 | none => j.largestMark)) - 1
      ≤ (match j.newestFound with | some q => q + 1 | none => j.largestMark) - 1
    refine Nat.sub_le_sub_right ?_ 1
    unfold Journal.newestFound
    cases ha : j.heldRecords.head? with
    | none => exact Nat.le_refl _
    | some a =>
      cases hb : j.heldRecords.getLast? with
      | none => rw [List.getLast?_eq_none_iff] at hb; rw [hb] at ha; cases ha
      | some b =>
        have := j.heldRecords_inOrder.head_le_last ha hb
        simp only [Option.map_some, Option.getD_some]
        omega
  · intro seq bytes e
    have : j.rebuilt.flash = .idle := hf
    rw [this] at e; cases e

/-- Counters reconciled with the flash are lawful if they were (R182). -/
theorem Journal.Ok.reconciled {j : Journal} (h : j.Ok) (hf : j.flash = .idle) : j.reconciled.Ok := by
  have n : j.nextSeq.value ≤ j.reconciled.nextSeq.value := by
    show j.nextSeq.value ≤ (match j.newestFound with | some q => max j.nextSeq.value (q + 1) | none => j.nextSeq.value)
    split
    · exact Nat.le_max_left _ _
    · exact Nat.le_refl _
  have r : j.reconciled.released.value ≤ j.released.value := by
    show (match j.oldestPending with | some q => min j.released.value (q - 1) | none => j.released.value) ≤ _
    split
    · exact Nat.min_le_left _ _
    · exact Nat.le_refl _
  refine ⟨Nat.le_trans h.next n, ?_, ?_, h.custodyOut, h.warnLevel, h.programFailures, h.eraseFailures⟩
  · have := h.released
    unfold Journal.newest at this ⊢
    omega
  · intro seq bytes e
    have : j.reconciled.flash = .idle := hf
    rw [this] at e; cases e

theorem Journal.oneActive_eq (j : Journal) : ∃ g, j.oneActive = { j with segments := g } := by
  unfold Journal.oneActive
  split
  · exact ⟨_, rfl⟩
  · exact ⟨_, rfl⟩

theorem Journal.voidCutOff_eq (j : Journal) : ∃ g, j.voidCutOff = { j with segments := g } := by
  unfold Journal.voidCutOff Journal.updSegment
  split
  · exact ⟨_, rfl⟩
  · exact ⟨_, rfl⟩

/-- Segments, the segment opened last and the queues may change: the rest of the Journal's law stands. -/
theorem Journal.Ok.segments {j : Journal} (h : j.Ok) (g : Bank Segment 64) (i : Fin 64) :
    { j with segments := g, lastOpened := i : Journal }.Ok :=
  ⟨h.next, h.released, h.program, h.custodyOut, h.warnLevel, h.programFailures, h.eraseFailures⟩

/-- The flash's part of the scan. -/
theorem Journal.Ok.scanned {j : Journal} (h : j.Ok) : j.scanned.Ok := by
  unfold Journal.scanned
  extract_lets j1 j2
  obtain ⟨g, hg⟩ := j1.oneActive_eq
  obtain ⟨g', hg'⟩ := j1.oneActive.voidCutOff_eq
  have e : j2 = { j with segments := g' } := by
    show j1.oneActive.voidCutOff = _
    rw [hg', hg]
  rw [e]
  exact h.segments g' _

theorem State.readNextSeq_flash (s : State) : s.readNextSeq.2.journal.flash = s.journal.flash := by
  simp [State.readNextSeq]
theorem State.readReleased_flash (s : State) : s.readReleased.2.journal.flash = s.journal.flash := by
  simp [State.readReleased]

theorem Journal.scanned_flash (j : Journal) : j.scanned.flash = j.flash := by
  unfold Journal.scanned
  extract_lets j1 j2
  obtain ⟨g, hg⟩ := j1.oneActive_eq
  obtain ⟨g', hg'⟩ := j1.oneActive.voidCutOff_eq
  have e : j2 = { j with segments := g' } := by
    show j1.oneActive.voidCutOff = _
    rw [hg', hg]
  rw [e]

theorem Journal.Ok.listCutOff {j : Journal} (h : j.Ok) : j.listCutOff.Ok := by
  unfold Journal.listCutOff
  generalize j.numbered.foldl _ _ = l
  exact ⟨h.next, h.released, h.program, h.custodyOut, h.warnLevel, h.programFailures, h.eraseFailures⟩

theorem Follows.startQueue (h : Follows s₀ s) (q : List QueueEntry) :
    Follows s₀ (s.updJournal fun j => { j with startQueue := q }) := h.frameJournal _

/-- The start-up scan follows, from a Journal whose flash is IDLE (R181, R182). -/
theorem Follows.scanFlash (h : Follows s₀ s) (lost : Bool) (hf : s.journal.flash = .idle) :
    Follows s₀ (s.scanFlash lost) := by
  unfold State.scanFlash
  have h1 := h.updJournal Journal.scanned fun k => k.scanned
  generalize hs1 : s.updJournal Journal.scanned = s1 at h1
  have e1 : s1.journal.flash = .idle := by
    rw [← hs1, State.updJournal_journal, Journal.scanned_flash]
    exact hf
  dsimp only
  have h2 := h1.readNextSeq.readReleased
  have e2 := (s1.readNextSeq.2.readReleased_flash).trans ((s1.readNextSeq_flash).trans e1)
  generalize s1.readNextSeq.2.readReleased = r at h2 e2 ⊢
  obtain ⟨ok2, s2⟩ := r
  dsimp only at h2 e2 ⊢
  have h3 : Follows s₀ (s2.updJournal fun j => if (lost || !s1.readNextSeq.1 || !ok2) = true then j.rebuilt else j.reconciled) := by
    refine h2.updJournal _ fun k => ?_
    split
    · exact Journal.Ok.rebuilt e2 k.custodyOut k.warnLevel k.programFailures k.eraseFailures
    · exact k.reconciled e2
  generalize (s2.updJournal fun j => if (lost || !s1.readNextSeq.1 || !ok2) = true then j.rebuilt else j.reconciled) = s3 at h3 ⊢
  exact Follows.judgeHigh (Follows.updJournal ((h3.startQueue _).raiseWhen _ _) _ fun k => k.listCutOff.judgeReclaim)

end Sys2Proof.Machine
end

