-- ==== Sys2Proof/WellFormed.lean ====
section
/-! DEFINITION. Which terms of `Instr` stand for a command that can reach the part. Each check names what it
checks; `exec` is total and answers a next state on the other terms as well (log entry 1). -/

namespace Sys2Proof

open Machine

/-- The parameter field of a good frame: a body is 4 to 1024 bytes, three of them codes and tag (R199). -/
def paramsOk (params : List Byte) : Bool := linkLengthOk (3 + params.length)

/-- A read-back that fails leaves a part of `n` bytes that is not the one written: the bytes left are `n`. -/
def ReadBack.sizeOk (n : Nat) : ReadBack → Bool
  | .ok => true
  | .fails left => left.length == n

/-- The sizes of what an append's programs left: headers of 16 bytes, places of 80 (R205). -/
def AppendResult.sizeOk (r : AppendResult) : Bool :=
  r.opens.all (ReadBack.sizeOk 16) && r.first.sizeOk 80 && r.second.sizeOk 80

/-- A segment header that an erase left is 16 bytes (R205). -/
def EraseResult.sizeOk : EraseResult → Bool
  | .erased => true
  | .notErased header => header.length == 16

/-- What a cut-off flash operation left is a header of 16 bytes, a settlement part of 21 or a place of 80
(R205, R206). -/
def FlashFate.sizeOk : FlashFate → Bool
  | .untouched => true
  | .complete => true
  | .cutOpening header => header.length == 16
  | .cut bytes => bytes.length == 16 || bytes.length == 21 || bytes.length == 80

/-- The longest run of characters of one bench frame: start byte, length, 96 bytes counted, two check bytes
(R201). -/
def benchFrameLimit : Nat := 100

/-- The characters of one bench frame, whole or cut. -/
def charsOk (chars : List Byte) : Bool := 1 ≤ chars.length && chars.length ≤ benchFrameLimit

/-- A command that can reach the part. Any wrong bits may have arisen in the protected memory: `GroupMem.upset` counts no
more words of a group than it has (R6, log entry 8). -/
def Instr.wf : Instr → Bool
  | .powerOnReset found => found.flash.sizeOk
  | .linkBadLength length => !linkLengthOk length.toNat
  | .linkByteGap received => received.length < 1029
  | .linkCrcError body crc => linkLengthOk body.length && crc != framedCrc body
  | .linkOverrunFrame received => received.length ≤ 1028
  | .unknownRequest group verb _ params => paramsOk params && !catalogued group verb
  | .devIdentify _ params => paramsOk params
  | .devStatus _ params => paramsOk params
  | .devTime _ params => paramsOk params
  | .devRestart _ params => paramsOk params
  | .evtRead _ params => paramsOk params
  | .evtMask _ params => paramsOk params
  | .slotList _ params => paramsOk params
  | .slotInfo _ params => paramsOk params
  | .slotVerify _ params => paramsOk params
  | .slotSuspend _ params => paramsOk params
  | .slotRange _ params => paramsOk params
  | .slotResume _ params => paramsOk params
  | .slotErase _ params => paramsOk params
  | .custOpen _ params => paramsOk params
  | .custCancel _ params => paramsOk params
  | .custClose _ params => paramsOk params
  | .custStatus _ params => paramsOk params
  | .engHold _ params => paramsOk params
  | .engResume _ params => paramsOk params
  | .engStatus _ params => paramsOk params
  | .profWrite _ params => paramsOk params
  | .profDelete _ params => paramsOk params
  | .profRead _ params => paramsOk params
  | .matchRead _ params => paramsOk params
  | .matchWrite _ params => paramsOk params
  | .matchEnable _ params => paramsOk params
  | .matchDisable _ params => paramsOk params
  | .ordPlace _ params => paramsOk params
  | .ordAmend _ params => paramsOk params
  | .ordHold _ params => paramsOk params
  | .ordRelease _ params => paramsOk params
  | .ordAbort _ params => paramsOk params
  | .ordRetire _ params => paramsOk params
  | .ordStatus _ params => paramsOk params
  | .ordList _ params => paramsOk params
  | .portSet _ params => paramsOk params
  | .portPause _ params => paramsOk params
  | .portResume _ params => paramsOk params
  | .portReadmit _ params => paramsOk params
  | .portReset _ params => paramsOk params
  | .portStatus _ params => paramsOk params
  | .jrnStatus _ params => paramsOk params
  | .jrnRead _ params => paramsOk params
  | .jrnRelease _ params => paramsOk params
  | .padPresence _ custodian => 1 ≤ custodian.toNat && custodian.toNat ≤ 99
  | .padComponent _ custodian component stated =>
    1 ≤ custodian.toNat && custodian.toNat ≤ 99 && (component.length == 16 || component.length == 32)
      && stated.length == 3
  | .padBadFrame _ body crc => padLengthOk body.length && (crc != framedCrc body || !padRecordOk body)
  | .padBadLength _ length => !padLengthOk length.toNat
  | .benchCheckError _ chars => charsOk chars
  | .benchLengthError _ chars => charsOk chars
  | .benchCut _ chars => charsOk chars
  | .hello _ chars => charsOk chars
  | .ready _ chars => charsOk chars
  | .ack _ chars => charsOk chars
  | .nak _ chars => charsOk chars
  | .done _ chars => charsOk chars
  | .flashProgramEnd result => result.sizeOk
  | .settlementProgramEnd result => result.sizeOk 21
  | .eraseEnd result => result.sizeOk
  | .startingEnds => true
  | .pfwTaken => true
  | .zeroizationBegins => true
  | .zeroizationEnd => true
  | .tamperDeasserted => true
  | .secondsTick => true
  | .linkResyncQuiet => true
  | .partRestart _ _ => true
  | .padWithdraw _ => true
  | .padFrameGap _ => true
  | .padQuiet _ => true
  | .padFrameUnanswered _ => true
  | .presenceLifetimeEnd _ => true
  | .windowExpiry => true
  | .assemblyLimitEnd => true
  | .jobEnd => true
  | .lineActivity _ => true
  | .benchInStep _ => true
  | .responseTimeout _ => true
  | .listeningPeriodEnd _ => true
  | .cooldownEnd _ => true
  | .readmissionEnd _ => true
  | .idleTimeExpiry _ => true
  | .waitLimitExpiry _ => true
  | .journalWaitExpiry _ => true
  | .counterRebuildEnd => true
  | .linkReplySent => true
  | .linkSkipGap => true

end Sys2Proof
end

