-- ==== Sys2Proof/Tests/Slice0.lean ====
section
/-! SUPPORT. Tests: ill-formed terms refused, published vectors of the ciphers and the spec's worked values, one step
of a few commands, and for each statement with hypotheses a state and operands that meet them all. -/

namespace Sys2Proof.Tests

open Sys2Proof Sys2Proof.Machine

set_option maxRecDepth 100000
set_option Elab.async false

/-! ## Ill-formed terms -/

theorem test_wf_fate : Instr.wf (.powerOnReset ⟨false, false, false, true, .cutOpening [0], []⟩) = false := by decide
theorem test_wf_cut : Instr.wf (.powerOnReset ⟨false, false, false, true, .cut [0], []⟩) = false := by decide
theorem test_wf_badLength : Instr.wf (.linkBadLength 4) = false := by decide
theorem test_wf_byteGap : Instr.wf (.linkByteGap (List.replicate 1029 0)) = false := by decide +kernel
theorem test_wf_crcError : Instr.wf (.linkCrcError [1, 1, 0, 0] (framedCrc [1, 1, 0, 0])) = false := by decide +kernel
theorem test_wf_overrun : Instr.wf (.linkOverrunFrame (List.replicate 1029 0)) = false := by decide +kernel
theorem test_wf_unknown : Instr.wf (.unknownRequest 1 1 0 [0]) = false := by decide
theorem test_wf_params : Instr.wf (.devIdentify 0 []) = false := by decide
theorem test_wf_paramsLong : Instr.wf (.slotRange 0 (List.replicate 1022 0)) = false := by decide +kernel
theorem test_wf_presence : Instr.wf (.padPresence .a 0) = false := by decide
theorem test_wf_component : Instr.wf (.padComponent .b 100 (List.replicate 16 0) [0, 0, 0]) = false := by decide
theorem test_wf_componentLength : Instr.wf (.padComponent .b 99 (List.replicate 15 0) [0, 0, 0]) = false := by decide
theorem test_wf_stated : Instr.wf (.padComponent .b 99 (List.replicate 16 0) [0, 0]) = false := by decide
theorem test_wf_badFrame : Instr.wf (.padBadFrame .a [2, 0, 0] 0) = false := by decide
theorem test_wf_padLength : Instr.wf (.padBadLength .a 37) = false := by decide
theorem test_wf_chars : Instr.wf (.ack 0 []) = false := by decide
theorem test_wf_charsLong : Instr.wf (.hello 0 (List.replicate 101 0)) = false := by decide +kernel
theorem test_wf_append : Instr.wf (.flashProgramEnd ⟨[], .fails [0], .ok, true⟩) = false := by decide
theorem test_wf_settlement : Instr.wf (.settlementProgramEnd (.fails [0])) = false := by decide
theorem test_wf_erase : Instr.wf (.eraseEnd (.notErased [0])) = false := by decide
theorem test_wf_good : Instr.wf (.slotInfo 0 [31]) = true := by decide

/-! ## Ciphers and checks -/

/-- FIPS 197, appendix C.1. -/
theorem test_aes128 : aesEncrypt (be 16 0x000102030405060708090a0b0c0d0e0f) (be 16 0x00112233445566778899aabbccddeeff)
    = be 16 0x69c4e0d86a7b0430d8cdb78070b4c55a := by decide +kernel

/-- FIPS 197, appendix C.3. -/
theorem test_aes256 :
    aesEncrypt (be 32 0x000102030405060708090a0b0c0d0e0f101112131415161718191a1b1c1d1e1f)
      (be 16 0x00112233445566778899aabbccddeeff) = be 16 0x8ea2b7ca516745bfeafc49904b496089 := by decide +kernel

/-- The worked example of the public DES literature (key 133457799BBCDFF1). -/
theorem test_des : desEncrypt (be 8 0x133457799BBCDFF1) (be 8 0x0123456789ABCDEF) = be 8 0x85E813540F0AB405 := by
  decide +kernel

/-! ## Worked values of sections 4.12 and 4.13 -/

/-- Item 1 of section 4.12. -/
def item412 : Item := ⟨.derived, .a16, 0x0102, 3⟩

/-- The item of section 4.13. -/
def item413 : Item := ⟨.derived, .a32, 0x0310, 6⟩

theorem test_label : issueLabel 0x00A41C07 200496 = [0x00, 0xA4, 0x1C, 0x07, 0x00, 0x03, 0x0F, 0x30, 0, 0] := by decide

theorem test_derivation : derivationBlocks item412 (issueLabel 0x00A41C07 200496)
    = [[0x01, 0x41, 0x01, 0x02, 0x00, 0xA4, 0x1C, 0x07, 0x00, 0x03, 0x0F, 0x30, 0, 0, 0x00, 0x80]] := by decide

theorem test_derivation_a32 : derivationBlocks item413 (issueLabel 0x00B31001 17)
    = [[0x01, 0x42, 0x03, 0x10, 0x00, 0xB3, 0x10, 0x01, 0, 0, 0, 0x11, 0, 0, 0x01, 0x00],
       [0x02, 0x42, 0x03, 0x10, 0x00, 0xB3, 0x10, 0x01, 0, 0, 0, 0x11, 0, 0, 0x01, 0x00]] := by decide

theorem test_transport : transportBlocks .a16 akUsage (ascii "P7-004188213")
    = [[0x01, 0x41, 0x77, 0x02, 0x50, 0x37, 0x2D, 0x30, 0x30, 0x34, 0x31, 0x38, 0x38, 0x32, 0x31, 0x33]] := by decide

theorem test_transport_short : transportBlock 2 .a32 wkUsage (ascii "K41207")
    = [0x02, 0x42, 0x77, 0x01, 0x30, 0x30, 0x30, 0x30, 0x30, 0x30, 0x4B, 0x34, 0x31, 0x32, 0x30, 0x37] := by decide

theorem test_serial_long : serialTwelve (ascii "ZT9-6130-0000517") = ascii "6130-0000517" := by decide

theorem test_header : loadHeader item412 1 = [0x01, 0x03, 0x41, 0x01, 0x01, 0x02, 0x00, 0x80]
    ∧ loadHeader item413 1 = [0x01, 0x06, 0x42, 0x01, 0x03, 0x10, 0x01, 0x00] := by decide

theorem test_tagMask : tagMask (loadHeader item412 1) [0x6D, 0x0E, 0x93]
    = [0x01, 0x03, 0x41, 0x01, 0x01, 0x02, 0x00, 0x80, 0x6D, 0x0E, 0x93, 0, 0, 0, 0, 0] := by decide

/-- The parity adjustment of section 4.12: 3A becomes 3B and 7F stays. -/
theorem test_parity : adjustParity [0x3A, 0x7F] = [0x3B, 0x7F] := by decide

/-! ## States -/

/-- READY, with nothing done yet. -/
def calm : State := { State.reset with link := { State.reset.link with mode := .ready } }

/-- SHUTDOWN. -/
def shut : State := { State.reset with link := { State.reset.link with mode := .shutdown } }

/-- READY with slot 31 as given. -/
def slotted (x : Slot) : State := calm.setSlot 31 x

/-- READY with port 15 as given. -/
def ported (q : Port) : State := calm.setPort 15 q

/-- An ACTIVE ROOT slot without a range record. -/
def root : Slot := { Slot.blank with
  state := .active, role := some .root, kind := some .a16, label := some (ascii "ROOTSLOT"), check := some [1, 2, 3]
  contributors := [⟨1, .a⟩, ⟨99, .b⟩], activation := some ⟨0, false⟩ }

/-- The window open with custodians 1 and 99 present. -/
def windowed (s : State) : State := { s with custody := { s.custody with
  lineA := { s.custody.lineA with presence := some ⟨1, 600⟩ }
  lineB := { s.custody.lineB with presence := some ⟨99, 600⟩ }
  window := some ⟨⟨0, false⟩, 0, 1, 99⟩ } }

/-- An assembly of a FIXED D16 key in slot 31 with one part given. -/
def assembly : Assembly :=
  ⟨31, .fixed, .d16, ascii "FIXEDKEY", [0, 0, 0], 2, [⟨1, .a, List.replicate 16 0, [0, 0, 0]⟩], 0, .collecting, ⟨0, false⟩,
    900, false⟩

/-- Slot 31 under that assembly. -/
def assembling (a : Assembly) : State := { windowed (slotted { Slot.blank with
  state := .assembling, role := some a.role, kind := some a.kind, label := some a.label }) with
  custody := { (windowed calm).custody with assembly := some a } }

/-- An order of profile 15 with the state and counts given. -/
def order (t : OrderState) (h : Option HoldReason) (remaining inProgress : Nat) (holders : List PortNo) : Order :=
  ⟨65535, 15, 9999, remaining, inProgress, 9999 - remaining - inProgress, 0, 0, 99, t, h, false, t != .queued, 1, holders⟩

/-- READY with one order. -/
def ordered (o : Order) : State := { calm with orders := ⟨[o], 1, Bank.fill 16 []⟩ }

/-- READY with the Journal as given. -/
def journaled (j : Journal) : State := { calm with journal := j }

/-! ## Terms of the witnesses -/

/-- The conditions of `State.Takes`, read off. -/
theorem takes_of {s : State} (h : (s.link.mode == .ready && s.link.receiver == .hunting && s.link.owed.isNone) = true) :
    s.Takes := by
  simp only [Bool.and_eq_true, beq_iff_eq, Option.isNone_iff_eq_none] at h
  exact ⟨h.1.1, h.1.2, h.2⟩

/-- The conditions of `State.Hears`, read off. -/
theorem hears_of {s : State} (h : (s.link.receiver == .hunting && s.link.owed.isNone) = true) : s.Hears := by
  simp only [Bool.and_eq_true, beq_iff_eq, Option.isNone_iff_eq_none] at h
  exact ⟨h.1, h.2⟩

/-- The conditions of `State.Sound`, read off. -/
theorem sound_of {s : State} (h : decide ((∀ i, (s.slot i).mem = SlotMem.clean) ∧ (∀ i, (s.profile i).mem = ProfileMem.clean)
    ∧ (∀ i, (s.entry i).control = GroupMem.clean) ∧ ∀ i, (s.entry i).contents = GroupMem.clean) = true) : s.Sound := by
  have h := of_decide_eq_true h
  exact ⟨h.1, h.2.1, h.2.2.1, h.2.2.2⟩

/-- The conditions of `State.StatesSound`, read off. -/
theorem states_of {s : State} (h : decide (∀ i, (s.slot i).mem.state = GroupMem.clean) = true) : s.StatesSound :=
  fun i => of_decide_eq_true h i

/-- The conditions of `State.RoomFor`, read off. -/
theorem room_of {s : State} {n : Nat} (h : decide (s.journal.state = .working ∧ 3 + (n : Int) < s.journal.free
    ∧ s.journal.waiters = [] ∧ s.journal.custodyOut + n ≤ 7) = true) : s.RoomFor n := by
  have h := of_decide_eq_true h
  exact ⟨h.1, h.2.1, h.2.2.1, h.2.2.2⟩

/-- The conditions of `State.LineHears`, read off. -/
theorem lineHears_of {s : State} {l : Line} (h : decide (s.link.mode = .ready ∧ (s.custody.line l).receiver = .listening
    ∧ s.lineBusy l = false) = true) : s.LineHears l := by
  have h := of_decide_eq_true h
  exact ⟨h.1, h.2.1, h.2.2⟩

/-- The conditions of `State.Receives`, read off. -/
theorem receives_of {s : State} {p : PortNo} {chars : List Byte} {j : Judged} (h : decide (s.link.mode ≠ .shutdown
    ∧ (s.port p).decodes = true ∧ (s.port p).inStep = true ∧ (s.port p).settings.judge chars = j) = true) :
    s.Receives p chars j := by
  have h := of_decide_eq_true h
  exact ⟨h.1, h.2.1, h.2.2.1, h.2.2.2⟩

/-- A lawful Order Table with one order. -/
theorem oneOrder_ok {o : Order} (h : decide ((o.hold.isSome = true ↔ o.state = .held) ∧ (o.state = .queued → o.started = false)
    ∧ (1 ≤ o.number ∧ o.number ≤ 65535) ∧ o.spoilLimit ≤ 99
    ∧ o.remaining + o.inProgress + o.completed + o.abandoned = o.quantity ∧ o.inProgress = o.unitHolders.length) = true) :
    (ordered o).orders.Ok := by
  have h := of_decide_eq_true h
  refine ⟨by simp [ordered], by simp [ordered], by simp [ordered], fun x hx => ?_⟩
  have : x = o := by simpa [ordered] using hx
  subst this
  exact ⟨h.1, h.2.1, h.2.2.1, h.2.2.2.1, h.2.2.2.2.1, h.2.2.2.2.2⟩

/-! ## Witnesses: steps and the workstation link -/

theorem witness_StepRunsFront : ∃ c rest, ({ calm with pending := [.linkSkipGap, .secondsTick] } : State).pending = c :: rest
    ∧ State.reset.pending = [] := ⟨_, _, rfl, rfl⟩

theorem reset_ok : State.reset.Ok where
  link := ⟨by decide, by decide, by decide, by decide, by decide, by decide⟩
  keys := ⟨fun i => by
    have : State.reset.keys.slots.look i = Slot.blank := by revert i; decide
    rw [this]; exact ⟨nofun, by decide, by decide⟩, by decide⟩
  custody := ⟨(fun l n h => by cases l <;> cases h), nofun, nofun, by decide⟩
  engine := ⟨by decide, nofun⟩
  profiles i := by
    have : State.reset.profiles.look i = Profile.blank := by revert i; decide
    rw [this]; exact fun h => by cases h
  entries i := by
    have : State.reset.entries.look i = Entry.blank := by revert i; decide
    rw [this]; exact fun h => by cases h
  orders := ⟨by decide, by decide, by decide, nofun⟩
  ports p := by
    have : State.reset.ports.look p = Port.blank := by revert p; decide
    rw [this]
    exact ⟨⟨by decide, by decide, by decide, by decide⟩, by decide, by decide, by decide, by decide, by decide⟩
  journal := ⟨by decide, by decide, nofun, by decide, by decide, by decide, by decide⟩

theorem witness_StepKeepsLawful : ∃ t, State.reset.Ok ∧ step State.reset = .next t := ⟨_, reset_ok, rfl⟩

theorem witness_FlagsStayPending : ∃ t, isReset .linkSkipGap = false ∧ (∀ tag params, Instr.linkSkipGap ≠ .evtRead tag params)
    ∧ exec .linkSkipGap { calm with link := { calm.link with pending := (EventFlag.global .storeLost).single } } = .next t
    ∧ State.flagPending { calm with link := { calm.link with pending := (EventFlag.global .storeLost).single } }
      (.global .storeLost) = true := ⟨_, rfl, nofun, rfl, by decide⟩

theorem witness_ShutdownLasts : ∃ t, (∀ found, Instr.secondsTick ≠ .powerOnReset found) ∧ shut.link.mode = .shutdown
    ∧ shut.link.restart = .none ∧ exec .secondsTick shut = .next t := ⟨_, nofun, rfl, rfl, rfl⟩

theorem witness_SettingsAndTimeKept : ∃ t, isReset .pfwTaken = false ∧ exec .pfwTaken calm = .next t
    ∧ (∀ tag params, Instr.pfwTaken = .portSet tag params → number params 0 1 ≠ (15 : PortNo).val)
    ∧ Instr.pfwTaken ≠ .secondsTick ∧ ∀ tag params, Instr.pfwTaken ≠ .devTime tag params :=
  ⟨_, rfl, rfl, nofun, nofun, nofun⟩

/-- A reply owed and formed. -/
def replying (r : Receiver) (m : Mode) : State := { calm with link := { calm.link with
  mode := m, receiver := r, owed := some ⟨1, 1, 0, some []⟩ } }

theorem witness_LinkReceiver : calm.Hears ∧ (3#16).toNat < 4 ∧ 1024 < (1025#16).toNat
    ∧ (∀ n, n = 4 ∨ n = 1024 → ∃ (body : List Byte) (crc : BitVec 16), body.length = n ∧ 4 ≤ body.length
      ∧ body.length ≤ 1024 ∧ crc ≠ crc16 (be 2 body.length ++ body))
    ∧ (({ calm with link := { calm.link with receiver := .resync } } : State).link.receiver = .resync
      ∧ ({ calm with link := { calm.link with receiver := .resync } } : State).link.owed = none)
    ∧ ((replying .hunting .ready).link.receiver = .hunting ∧ (replying .hunting .ready).link.owed.isSome = true)
    ∧ (replying .skipping .ready).link.receiver = .skipping
    ∧ ∃ o body, (replying .hunting .ready).link.owed = some o ∧ o.body = some body := by
  refine ⟨hears_of rfl, by decide, by decide, fun n hn => ⟨List.replicate n 0,
    crc16 (be 2 (List.replicate n (0 : Byte)).length ++ List.replicate n 0) + 1, by simp, ?_, ?_, by simp⟩, ⟨rfl, rfl⟩,
    ⟨rfl, rfl⟩, rfl, _, _, rfl, rfl⟩
  · rcases hn with rfl | rfl <;> simp
  · rcases hn with rfl | rfl <;> simp

theorem calm_quiet : calm.Quiet := by unfold State.Quiet; decide +kernel

theorem replying_quiet : (replying .hunting .ready).Quiet := by unfold State.Quiet; decide +kernel

theorem witness_RequestChecks :
    (∃ r, requestOf (.slotInfo 0 [31]) = some r ∧ r.everyMode = false ∧ State.reset.link.mode = .starting
      ∧ State.reset.Hears ∧ State.reset.Quiet ∧ shut.link.mode = .shutdown ∧ shut.Hears ∧ shut.Quiet)
    ∧ (∃ r, requestOf (.slotInfo 0 []) = some r ∧ calm.Quiet ∧ calm.Hears ∧ calm.link.mode = .ready
      ∧ r.params.length ≠ r.shape.length)
    ∧ (∃ r, requestOf (.devIdentify 0 [1]) = some r ∧ r.everyMode = true ∧ r.params.length = r.shape.length
      ∧ r.shape = .bare ∧ r.params ≠ [0])
    ∧ (∃ r, requestOf (.devStatus 0 [0]) = some r ∧ (replying .hunting .ready).Quiet
      ∧ (replying .hunting .ready).link.receiver = .hunting ∧ (replying .hunting .ready).link.owed.isSome = true)
    ∧ catalogued 0 1 = false ∧ catalogued 10 4 = false :=
  ⟨⟨_, rfl, rfl, rfl, hears_of rfl, by unfold State.Quiet; decide +kernel, rfl, hears_of rfl, by unfold State.Quiet; decide⟩,
    ⟨_, rfl, calm_quiet, hears_of rfl, rfl, by decide⟩, ⟨_, rfl, rfl, rfl, rfl, by decide⟩, ⟨_, rfl, replying_quiet, rfl, rfl⟩,
    by decide, by decide⟩

/-- READY while a zeroization runs. -/
def zeroizing : State := { calm with keys := { calm.keys with zeroizing := true } }

theorem witness_RequestChecks_owner : calm.Takes ∧ calm.Quiet
    ∧ (∃ r, requestOf (.slotInfo 0 [32]) = some r ∧ namedOf (.slotInfo 0 [32]) = some 32 ∧ r.params.length = r.shape.length
      ∧ 32 ≤ number r.params 0 1)
    ∧ (∃ r, requestOf (.portStatus 0 [16]) = some r ∧ namedOf (.portStatus 0 [16]) = some 16 ∧ r.params.length = r.shape.length
      ∧ 16 ≤ number r.params 0 1)
    ∧ (∃ r, requestOf (.ordHold 0 [0, 0]) = some r ∧ namesOrder (.ordHold 0 [0, 0]) = true ∧ number r.params 0 2 = 0)
    ∧ (∃ r, requestOf (.ordStatus 0 [255, 255]) = some r ∧ namesOrder (.ordStatus 0 [255, 255]) = true
      ∧ number r.params 0 2 ≠ 0 ∧ calm.order? (number r.params 0 2) = none)
    ∧ (zeroizing.Takes ∧ zeroizing.Quiet ∧ zeroizing.keys.zeroizing = true)
    ∧ (∃ r, requestOf (.slotErase 0 [31]) = some r ∧ r.group = 3 ∧ r.shape ≠ .bare ∧ number r.params 0 1 < 32)
    ∧ ∃ r, requestOf (.slotList 0 [0]) = some r ∧ r.group = 3 ∧ namedOf (.slotList 0 [0]) = none ∧ r.params = [0] :=
  ⟨takes_of rfl, calm_quiet, ⟨_, rfl, rfl, rfl, by decide⟩, ⟨_, rfl, rfl, rfl, by decide⟩, ⟨_, rfl, rfl, by decide⟩,
    ⟨_, rfl, rfl, by decide, by decide⟩, ⟨takes_of rfl, by unfold State.Quiet; decide +kernel, rfl⟩,
    ⟨_, rfl, rfl, nofun, by decide⟩, _, rfl, rfl, rfl, rfl⟩

theorem witness_SecondsCounted : State.reset.link.seconds < 2 ^ 32
    ∧ ({ calm.link with seconds := 0xFFFFFFFF } : LinkController).seconds < 2 ^ 32 ∧ calm.Takes ∧ (be 4 0).length = 4 :=
  ⟨by decide, by decide, takes_of rfl, rfl⟩

theorem witness_FlagsReadAndMasked : calm.link.Ok ∧ (calm.flagged (EventFlag.global .linkError).single).link.Ok ∧ calm.Takes ∧ (be 11 0).length = 11
    ∧ BitVec.ofNat 88 (ofBE (be 11 (0x1F <<< 64))) &&& unusedFlagBits ≠ 0
    ∧ BitVec.ofNat 88 (ofBE (be 11 (1 <<< 63))) &&& unusedFlagBits = 0 := 
  ⟨⟨by decide, by decide, by decide, by decide, by decide, by decide⟩,
    ⟨by decide, by decide, by decide, by decide, by decide, by decide⟩, takes_of rfl, rfl, by decide, by decide⟩

theorem witness_ReportsChangeNothing : shut.Hears ∧ calm.Hears ∧ calm.link.mode = .ready
    ∧ (number (be 2 65535) 0 2 ≠ 0 ∧ (be 2 65535).length = 2
      ∧ (ordered (order .queued none 9999 0 [])).order? (number (be 2 65535) 0 2) = some (order .queued none 9999 0 []))
    ∧ number [15] 0 1 = (15 : PortNo).val
    ∧ (calm.Takes ∧ calm.Sound ∧ calm.Quiet ∧ calm.keys.zeroizing = false
      ∧ number [31] 0 1 = (31 : SlotNo).val ∧ number [15] 0 1 = (15 : Fin 16).val ∧ number [31] 0 1 = (31 : Fin 32).val) :=
  ⟨hears_of rfl, hears_of rfl, rfl, ⟨by decide, rfl, by decide⟩, by decide, takes_of rfl, sound_of (by decide +kernel),
    calm_quiet, rfl, by decide, by decide, by decide⟩

/-! ## Witnesses: modes, resets, zeroization -/

/-- READY with a restart due. -/
def restartDue : State := { calm with link := { calm.link with restart := .due } }

theorem witness_ModeChanges : State.reset.link.mode = .starting ∧ calm.Takes ∧ restartDue.Takes
    ∧ restartDue.link.restart = .due := ⟨rfl, takes_of rfl, takes_of rfl, rfl⟩

/-- A second DEV.RESTART while a restart is due leaves it due (R194). -/
theorem test_restart_stays_due : ∀ t, exec (.devRestart 0 [0]) restartDue = .next t → t.link.restart = .due :=
  fun t h => by cases h; decide +kernel

/-- A power-on reset with nothing amiss. -/
def found : PowerOn := ⟨false, false, false, true, .untouched, []⟩

theorem witness_ResetValues : (found.batteryHeld = true ∧ found.upsets = [] ∧ found.flash = .untouched)
    ∧ (({ found with batteryHeld := false } : PowerOn).batteryHeld = false ∧ found.upsets = [])
    ∧ restartDue.link.restart = .due ∧ restartDue.journal.flash = .idle :=
  ⟨⟨rfl, rfl, rfl⟩, ⟨rfl, rfl⟩, rfl, rfl⟩

theorem reset_from : ResetFrom State.reset State.reset false false false where
  queue := rfl
  agenda := rfl
  pins := rfl
  link := rfl
  keys := ⟨rfl, rfl, rfl⟩
  custody := rfl
  engine := rfl
  holders n := by revert n; decide
  orders := rfl
  ports p := by revert p; decide
  journal := rfl

/-- A reset state whose store-valid marker is lost. -/
def lost : State := { State.reset with keys := { State.reset.keys with marker := ⟨false, GroupMem.clean⟩ } }

/-- A flash whose segment 5 holds a PENDING ISSUE record and one cut off by loss of power, and whose segment 9 an erase
cut off; the word of next sequence is given. -/
def scanning (m : GroupMem) : State := { State.reset with journal := { State.reset.journal with
  segments := (State.reset.journal.segments.put 5 ⟨openedHeader 7,
    [⟨issueBytes 7 ⟨15, 1, 15, 1, 1, 1, 1, 1, ascii "S", ⟨0, false⟩⟩, false⟩, ⟨kindIssue :: List.replicate 79 0, true⟩], .erased⟩).put
    9 ⟨List.replicate 16 1, [], .erased⟩
  nextSeq := ⟨3, m⟩ } }

theorem scanning_from (m : GroupMem) : ResetFrom State.reset (scanning m) false false false := { reset_from with journal := rfl }

theorem witness_StartUpStore : (ResetFrom State.reset State.reset false false false ∧ State.reset.keys.marker.valid = true
      ∧ State.reset.keys.marker.mem.double = false)
    ∧ (ResetFrom State.reset lost false false false ∧ lost.keys.marker.valid = false)
    ∧ (∀ m, m = GroupMem.clean ∨ m = ⟨0, true, false⟩ → ResetFrom State.reset (scanning m) false false false
      ∧ (scanning m).keys.marker.valid = true ∧ (scanning m).keys.marker.mem.double = false
      ∧ (scanning m).journal.nextSeq.mem = m ∧ (scanning m).journal.released.mem = GroupMem.clean) :=
  ⟨⟨reset_from, rfl, rfl⟩, ⟨{ reset_from with }, rfl⟩, by
    rintro m (rfl | rfl) <;> exact ⟨scanning_from _, rfl, rfl, rfl, rfl⟩⟩

/-- A start-up that finds these pins, with key 31 in its slot and a slot 0 with errors in its state group. -/
def starting (tamper pfw twoBits : Bool) : State := { (State.reset.setSlot 31 root).setSlot 0 { root with
    mem := { SlotMem.clean with state := ⟨2, twoBits, false⟩ } } with pins := ⟨false, tamper, pfw⟩ }

theorem witness_StartUpStore_pins : ∀ tamper pfw twoBits,
    let u := starting tamper pfw twoBits
    ResetFrom State.reset u false tamper pfw ∧ u.keys.marker.valid = true ∧ u.keys.marker.mem.double = false
    ∧ (u.slot 31).state = .active ∧ (u.slot 31).mem.state = GroupMem.clean
    ∧ (u.slot 0).mem.state.double = twoBits ∧ (u.slot 0).mem.state.unreadable = false := by
  intro tamper pfw twoBits
  refine ⟨{ reset_from with pins := rfl, keys := ⟨rfl, rfl, rfl⟩, journal := rfl }, rfl, rfl, by decide +revert, by decide +revert,
    by decide +revert, by decide +revert⟩

/-- A start-up with TAMPER asserted leaves the slot EMPTY, without it the key stands; with PFW the part is in SHUTDOWN
and the key stands (R23, R25, R190). -/
theorem test_start_pins : ((starting true false false).startUp.slot 31).state = .empty
    ∧ ((starting false true false).startUp.slot 31).key = root.key ∧ (starting false true false).startUp.link.mode = .shutdown :=
  ⟨by decide +kernel, by decide +kernel, by decide +kernel⟩

/-- The scan voids the record cut off, settles the PENDING one and lists the erase cut off (R181, R182). -/
theorem test_scan : let j := ((scanning GroupMem.clean).scanFlash false).journal
    (j.segments.look 5).state = .active ∧ (j.segments.look 9).state = .erasing ∧ j.eraseList = [9]
    ∧ ((j.segments.look 5).places.map Place.kind) = [0x1A, 0] ∧ j.nextSeq.value = 8 ∧ j.released.value = 0
    ∧ j.startQueue = [.settle ⟨some ⟨7, 5, 0⟩, none, ⟨.interrupted, .none, ⟨0, false⟩, []⟩, false, none⟩] := by
  decide +kernel

/-! ## Witnesses: Key Store -/

/-- A CHECK job of slot 31 in flight for requester 16. -/
def verifying (x : Slot) (stored : Option (List Byte)) : State := { slotted x with
  link := { calm.link with owed := some ⟨3, 3, 0, none⟩, buffer := [3, 3, 0, 31] }
  keys := { (slotted x).keys with verify := some ⟨31, stored⟩ }
  engine := { calm.engine with inFlight := some ⟨⟨custodyRequester, .slot 31, .check⟩, .a16, List.replicate 16 0, [], [], .none⟩ } }

/-- That job waiting at an idle engine. -/
def verifyWaiting (x : Slot) : State := { verifying x none with
  engine := { calm.engine with waiting := calm.engine.waiting.put 16 (some ⟨custodyRequester, .slot 31, .check⟩) } }

theorem witness_PowerFailTaken : (State.reset.link.mode ≠ .shutdown ∧ State.reset.link.restart = .none
      ∧ calm.link.mode ≠ .shutdown ∧ calm.link.restart = .none ∧ calm.journal.request = none ∧ calm.keys.verify = none)
    ∧ (let s := verifyWaiting root
      s.link.mode ≠ .shutdown ∧ s.link.restart = .none ∧ s.keys.verify.isSome = true
      ∧ (∃ j, s.engine.waiting.look custodyRequester = some j ∧ j.isVerify = true) ∧ s.link.owed = some ⟨3, 3, 0, none⟩)
    ∧ (let s : State := { calm with
        link := { calm.link with owed := some ⟨10, 1, 0, none⟩ }, journal := { calm.journal with request := some (.status 0) } }
      s.link.mode ≠ .shutdown ∧ s.link.restart = .none ∧ s.keys.verify = none ∧ s.journal.request.isSome = true
      ∧ s.link.owed = some ⟨10, 1, 0, none⟩) :=
  ⟨⟨by decide, rfl, by decide, rfl, rfl, rfl⟩, ⟨by decide, rfl, rfl, ⟨⟨custodyRequester, .slot 31, .check⟩, by decide, rfl⟩, rfl⟩,
    by decide, rfl, rfl, rfl, rfl⟩

/-- A power-fail warning leaves the session of a port and none of the values it computed with (R79, R162). -/
theorem test_pfw_erases : ∀ x : Session, x.phase = .loading →
    ({ Port.blank with session := some { x with
        device := some 1, label := some [1], items := [⟨.wrapped, some [2], some [3]⟩] } } : Port).stopped.session.map
      (fun y => (y.phase, y.device, y.label, y.items)) = some (.loading, none, none, [⟨.wrapped, none, none⟩]) := by
  intro x h
  simp [Port.stopped, Session.valuesErased, h]

/-- A job that waits at a power-fail warning stays waiting, without the values it was submitted with (R61, R79). -/
theorem test_pfw_jobs : let e : Engine := { calm.engine with
      waiting := calm.engine.waiting.put 15 (some ⟨15, .position .k1, .wrap [1] [2]⟩) }
    e.stopped.waiting.look 15 = some ⟨15, .position .k1, .wrap [] []⟩ ∧ e.stopped.holdShutdown = true := by decide

/-- Four wrong bits fill the four words of a 16-byte key, and a fifth is the second of one of them; a 32-byte key has
eight words (R6). -/
theorem test_key_words :
    let hurt (k : KeyKind) (n : Nat) : GroupMem := (((List.replicate n (⟨.slot 31 .key, false⟩ : Upset)).foldl State.applyUpset
      (calm.setSlot 31 { Slot.blank with state := .active, kind := some k })).slot 31).mem.key
    hurt .a16 4 = ⟨4, false, false⟩ ∧ hurt .d16 5 = ⟨4, true, false⟩ ∧ hurt .a32 8 = ⟨8, false, false⟩
      ∧ hurt .a32 9 = ⟨8, true, false⟩ := by decide

/-- A ZEROIZED record with a count of 1. -/
def zeroizedOnce : QueueEntry := .custody ⟨.zeroized, ⟨0, false⟩, 0, 0, [1]⟩

theorem witness_Zeroization : (calm.pins.tamper = false ∧ calm.keys.zeroizing = false ∧ calm.link.mode ≠ .shutdown
      ∧ shut.pins.tamper = false ∧ shut.keys.zeroizing = false ∧ shut.link.mode = .shutdown
      ∧ ({ calm with keys := { calm.keys with zeroizing := true } } : State).pins.tamper = false
      ∧ ({ calm with keys := { calm.keys with zeroizing := true } } : State).keys.zeroizing = true
      ∧ (∀ p, calm.session? p = none) ∧ calm.custody.assembly = none)
    ∧ (∃ f, (verifying root none).engine.inFlight = some f ∧ f.mark = .none ∧ f.job.readsSlot = true
      ∧ (verifying root none).pins.tamper = false ∧ ({ f with mark := .discarded } : InFlight).mark ≠ .none)
    ∧ (let j : Job := ⟨portRequester 15, .position .wk, .check⟩
      let s : State := { ported { Port.blank with session := some (Session.created ⟨1, 2, ascii "S", 3, true, true, true, 15, true⟩) } with
        engine := { calm.engine with inFlight := some ⟨j, .a16, [], [], [], .none⟩ } }
      s.pins.tamper = false ∧ s.link.mode ≠ .shutdown ∧ j.readsSlot = false ∧ (s.session? 15).isSome = true
      ∧ (assembling assembly).custody.assembly.isSome = true ∧ (⟨custodyRequester, .component, .check⟩ : Job).readsSlot = false)
    ∧ (calm.journal.state = .working ∧ 1 ≤ calm.journal.free
      ∧ (journaled { calm.journal with promised := 8192 }).journal.free < 1
      ∧ (journaled { calm.journal with state := .fault }).journal.state = .fault ∧ shut.shutDown.journal.state = .stopped
      ∧ zeroizedOnce ∈ (journaled { calm.journal with runQueue := [zeroizedOnce] }).journal.runQueue) := by
  refine ⟨by decide, ⟨_, rfl, rfl, rfl, rfl, by decide⟩, by decide, rfl, by decide +kernel, by decide +kernel, rfl, rfl, ?_⟩
  exact List.mem_singleton.mpr rfl

theorem witness_Zeroization_verify : ∃ j, (verifyWaiting root).engine.waiting.look custodyRequester = some j
    ∧ j.isVerify = true ∧ (verifyWaiting root).link.owed = some ⟨3, 3, 0, none⟩ ∧ (verifyWaiting root).pins.tamper = false
    ∧ (verifyWaiting root).keys.zeroizing = false ∧ (verifyWaiting root).link.mode ≠ .shutdown :=
  ⟨⟨custodyRequester, .slot 31, .check⟩, by decide, rfl, rfl, rfl, rfl, by decide⟩

/-- A session of port 15, a waiter, beside an assembly with a component in its intake and the window open. -/
def struck (x : Session) (f : Flash) : State := { ((assembling assembly).setPort 15 { Port.blank with state := .inSession, session := some x }) with
  custody := { (assembling assembly).custody with intake := [⟨.b, 99, List.replicate 16 0, [0, 0, 0]⟩] }
  journal := { calm.journal with
    flash := f, waiters := [15]
    runQueue := [.settle ⟨some ⟨1, 63, 0⟩, some 15, ⟨.complete, .none, ⟨0, false⟩, []⟩, true, none⟩] } }

theorem witness_Zeroization_ends : ∀ dev ph f e,
    (dev, ph, f, e) ∈ [(none, Phase.greeting, Flash.idle, (Ending.withdrawn, Reason.zeroized)),
      (some 5, .loading, .idle, (.spoiled, .zeroized)), (some 5, .settling, .idle, (.spoiled, .zeroized)),
      (some 5, .settling, .programming (.settle []), (.complete, .none)), (some 5, .closing, .idle, (.complete, .none))] →
    let x : Session := { Session.created ⟨1, 2, ascii "S", 3, true, true, true, 15, true⟩ with phase := ph, device := dev }
    let s := struck x f
    s.pins.tamper = false ∧ s.keys.zeroizing = false ∧ s.link.mode ≠ .shutdown ∧ s.custody.window.isSome = true
      ∧ s.custody.assembly.isSome = true ∧ s.session? 15 = some x ∧ s.session? 0 = none ∧ s.cutEnd 15 x .zeroized = e
      ∧ s.journal.waiters.Nodup ∧ (∀ p ∈ s.journal.waiters, (s.session? p).isSome = true)
      ∧ s.engine.kept.look custodyRequester = none := by
  intro dev ph f e h
  simp only [List.mem_cons, List.not_mem_nil, or_false, Prod.mk.injEq] at h
  rcases h with ⟨rfl, rfl, rfl, rfl⟩ | ⟨rfl, rfl, rfl, rfl⟩ | ⟨rfl, rfl, rfl, rfl⟩ | ⟨rfl, rfl, rfl, rfl⟩ | ⟨rfl, rfl, rfl, rfl⟩ <;>
    decide

/-- READY with a hold of the engine by the host. -/
def engineHeld (s : State) : State := { s with engine := { s.engine with holdHost := true } }

theorem witness_SlotVerified_refused : ((slotted { root with state := .damaged }).Takes ∧ (slotted { root with state := .damaged }).Sound
      ∧ ((slotted { root with state := .damaged }).slot 31).state ≠ .active)
    ∧ ((engineHeld (slotted root)).Takes ∧ (engineHeld (slotted root)).Sound ∧ (engineHeld (slotted root)).engine.held = true)
    ∧ (let s : State := { slotted root with engine := (verifyWaiting root).engine }
      s.Takes ∧ s.Sound ∧ s.engine.held = false ∧ (s.engine.waiting.look custodyRequester).isSome = true)
    ∧ (let s : State := { slotted root with engine := (verifying root none).engine }
      s.Takes ∧ s.Sound ∧ s.engine.held = false ∧ ∃ f, s.engine.inFlight = some f ∧ f.job.requester = custodyRequester) :=
  ⟨⟨takes_of rfl, sound_of (by decide +kernel), by decide⟩, ⟨takes_of rfl, sound_of (by decide +kernel), rfl⟩,
    ⟨takes_of rfl, sound_of (by decide +kernel), rfl, by decide⟩, takes_of rfl, sound_of (by decide +kernel), rfl, _, rfl, rfl⟩

theorem witness_SlotVerified :
    ((slotted root).Takes ∧ (slotted root).Sound ∧ (slotted root).keys.zeroizing = false
      ∧ [(31 : Byte)].length = 1 ∧ number [31] 0 1 = (31 : SlotNo).val ∧ ((slotted root).slot 31).state = .active
      ∧ ((slotted { root with state := .suspended }).slot 31).state = .suspended ∧ (slotted root).engine.held = false
      ∧ (slotted root).engine.busy custodyRequester = false)
    ∧ (∃ f v, (verifying root none).link.mode = .ready
      ∧ (verifying root none).engine.inFlight = some f ∧ f.job = ⟨custodyRequester, .slot 31, .check⟩ ∧ f.mark = .none
      ∧ (verifying root none).keys.verify = some v ∧ (verifying root none).link.owed = some ⟨3, 3, 0, none⟩
      ∧ (verifying root none).link.buffer = 3 :: 3 :: 0 :: [31] ∧ v.stored ≠ some (checkValue f.kind f.key)
      ∧ checkValue f.kind f.key = [0x66, 0xE9, 0x4B] ∧ ({ f with mark := .zeroized } : InFlight).mark = .zeroized)
    ∧ (let s := verifyWaiting { root with state := .damaged }
      s.link.mode = .ready ∧ s.Sound ∧ s.agenda = [] ∧ s.takeUp? = none
      ∧ s.engine.granted? = some ⟨custodyRequester, .slot 31, .check⟩ ∧ (s.slot 31).state = .damaged) :=
  ⟨⟨takes_of rfl, sound_of (by decide +kernel), rfl, rfl, by decide, by decide, by decide, by decide, by decide⟩,
    ⟨_, _, rfl, rfl, rfl, rfl, rfl, rfl, rfl, by decide, by decide +kernel, rfl⟩,
    rfl, sound_of (by decide +kernel), rfl, rfl, by decide +kernel, by decide⟩

theorem slotted_root : (slotted root).Takes ∧ (slotted root).Sound ∧ (slotted root).RoomFor 1 ∧ (windowed (slotted root)).Takes
    ∧ (windowed (slotted root)).Sound ∧ (windowed (slotted root)).RoomFor 1 ∧ (windowed (slotted root)).WindowOf 1 99 :=
  ⟨takes_of rfl, sound_of (by decide +kernel), room_of (by decide +kernel), takes_of rfl, sound_of (by decide +kernel),
    room_of (by decide +kernel), _, rfl, rfl, rfl⟩

/-- A state whose Journal has no place left for a custody request of one record. -/
def crowded (s : State) : State := { s with journal := { s.journal with promised := 8188 } }

theorem crowded_room {s : State} (h : (crowded s).journal.free = 4) : ¬ (crowded s).RoomFor 1 := fun r => by
  have := r.free
  omega

theorem witness_SlotSuspendedResumed : ((slotted root).Takes ∧ (slotted root).Sound ∧ (slotted root).RoomFor 1
      ∧ (slotted root).keys.zeroizing = false ∧ number [31] 0 1 = (31 : SlotNo).val ∧ ((slotted root).slot 31).state = .active
      ∧ (slotted root).custody.window = none)
    ∧ ((crowded (slotted root)).Takes ∧ (crowded (slotted root)).Sound ∧ ¬ (crowded (slotted root)).RoomFor 1)
    ∧ (let s := windowed (slotted { root with state := .suspended })
      s.Takes ∧ s.Sound ∧ s.RoomFor 1 ∧ s.WindowOf 1 99 ∧ (s.slot 31).state = .suspended
      ∧ (crowded s).Takes ∧ (crowded s).Sound ∧ (crowded s).WindowOf 1 99 ∧ ¬ (crowded s).RoomFor 1)
    ∧ (windowed (slotted root)).WindowOf 1 99 ∧ ((windowed (slotted root)).slot 31).state ≠ .suspended :=
  ⟨⟨slotted_root.1, slotted_root.2.1, slotted_root.2.2.1, rfl, by decide, by decide, rfl⟩,
    ⟨takes_of rfl, sound_of (by decide +kernel), crowded_room (by decide +kernel)⟩,
    ⟨takes_of rfl, sound_of (by decide +kernel), room_of (by decide +kernel), ⟨_, rfl, rfl, rfl⟩, by decide, takes_of rfl,
      sound_of (by decide +kernel), ⟨_, rfl, rfl, rfl⟩, crowded_room (by decide +kernel)⟩, ⟨_, rfl, rfl, rfl⟩, by decide⟩

/-- The parameters of SLOT.RANGE over the whole run of numbers. -/
def rangeParams : List Byte := be 1 31 ++ be 4 7 ++ be 4 1 ++ be 4 0xFFFFFFFE ++ be 2 65535

theorem witness_SlotRangeSet : (windowed (slotted root)).Takes ∧ (windowed (slotted root)).Sound
    ∧ (windowed (slotted root)).RoomFor 1 ∧ (windowed (slotted root)).WindowOf 1 99
    ∧ ((windowed (slotted root)).keys.zeroizing = false ∧ rangeParams.length = 15
      ∧ number rangeParams 0 1 = (31 : SlotNo).val ∧ ((windowed (slotted root)).slot 31).state = .active
      ∧ ((windowed (slotted root)).slot 31).role = some .root ∧ ((windowed (slotted root)).slot 31).range = none
      ∧ number rangeParams 5 4 ≠ 0 ∧ number rangeParams 5 4 ≤ number rangeParams 9 4
      ∧ number rangeParams 9 4 ≤ 0xFFFFFFFE
      ∧ ∀ k : SlotNo, k ≠ 31 → ((windowed (slotted root)).slot k).range.map (·.keySet) ≠ some (number rangeParams 1 4)) :=
  ⟨slotted_root.2.2.2.1, slotted_root.2.2.2.2.1, slotted_root.2.2.2.2.2.1, slotted_root.2.2.2.2.2.2, by decide +kernel⟩

/-- Another ROOT slot with the key set number of `rangeParams`, its range group as given. -/
def twin (m : GroupMem) (t : SlotState) : State := (windowed (slotted root)).setSlot 0 { root with
  state := t, range := some ⟨7, 1, 9, 1, 0, false⟩, mem := SlotMem.clean.upd .range (fun _ => m) }

theorem witness_SlotRangeSet_refused :
    ¬ (number (be 1 31 ++ be 4 7 ++ be 4 2 ++ be 4 1 ++ be 2 0) 5 4 ≤ number (be 1 31 ++ be 4 7 ++ be 4 2 ++ be 4 1 ++ be 2 0) 9 4)
    ∧ (let s := windowed (slotted { root with role := some .fixed })
      s.Takes ∧ s.Sound ∧ s.WindowOf 1 99 ∧ (s.slot 31).role ≠ some .root)
    ∧ ((twin GroupMem.clean .active).Takes ∧ (twin GroupMem.clean .active).Sound ∧ (twin GroupMem.clean .active).WindowOf 1 99
      ∧ ((twin GroupMem.clean .active).slot 0).range.map (·.keySet) = some (number rangeParams 1 4)
      ∧ ((twin GroupMem.clean .active).slot 31).range = none)
    ∧ ((crowded (windowed (slotted root))).Takes ∧ (crowded (windowed (slotted root))).Sound
      ∧ (crowded (windowed (slotted root))).WindowOf 1 99 ∧ ¬ (crowded (windowed (slotted root))).RoomFor 1)
    ∧ ∀ m t, (m = ⟨0, true, true⟩ ∧ t = SlotState.damaged ∨ m = ⟨0, true, false⟩ ∧ (t = .active ∨ t = .suspended)) →
      (twin m t).Takes ∧ (twin m t).WindowOf 1 99 ∧ (twin m t).keys.zeroizing = false
      ∧ (∀ n, n ≠ 0 → ((twin m t).slot n).mem = SlotMem.clean) ∧ ((twin m t).slot 0).state = t
      ∧ ((twin m t).slot 0).mem = SlotMem.clean.upd .range (fun _ => m) ∧ ((twin m t).slot 31).range = none := by
  refine ⟨by decide, ⟨takes_of rfl, sound_of (by decide +kernel), ⟨_, rfl, rfl, rfl⟩, by decide⟩,
    ⟨takes_of rfl, sound_of (by decide +kernel), ⟨_, rfl, rfl, rfl⟩, by decide, by decide⟩,
    ⟨takes_of rfl, sound_of (by decide +kernel), ⟨_, rfl, rfl, rfl⟩, crowded_room (by decide +kernel)⟩, ?_⟩
  rintro m t (⟨rfl, rfl⟩ | ⟨rfl, rfl | rfl⟩) <;>
    exact ⟨takes_of rfl, ⟨_, rfl, rfl, rfl⟩, rfl, by decide +kernel, by decide, by decide, by decide⟩

theorem witness_SlotErased : ((windowed (slotted root)).Takes ∧ (windowed (slotted root)).Sound
      ∧ (windowed (slotted root)).WindowOf 1 99 ∧ (windowed (slotted root)).RoomFor 1
      ∧ (windowed (slotted root)).keys.zeroizing = false ∧ ((windowed (slotted root)).slot 31).holders = 0
      ∧ ((windowed (slotted root)).slot 31).state ≠ .assembling)
    ∧ (0 < ((windowed (slotted { root with holders := 1 })).slot 31).holders
      ∧ (windowed (slotted { root with holders := 1 })).Sound)
    ∧ (let s := assembling assembly
      s.Takes ∧ s.Sound ∧ s.RoomFor 1 ∧ s.WindowOf 1 99 ∧ s.keys.zeroizing = false ∧ (s.slot 31).holders = 0
      ∧ (s.slot 31).state = .assembling ∧ s.custody.assembly = some assembly ∧ assembly.slot = 31) :=
  ⟨⟨slotted_root.2.2.2.1, slotted_root.2.2.2.2.1, slotted_root.2.2.2.2.2.2, slotted_root.2.2.2.2.2.1, rfl, by decide,
    by decide⟩, ⟨by decide, sound_of (by decide +kernel)⟩, takes_of rfl, sound_of (by decide +kernel),
    room_of (by decide +kernel), ⟨_, rfl, rfl, rfl⟩, rfl, by decide, by decide, rfl, rfl⟩

theorem witness_SlotErased_refused : let s := crowded (windowed (slotted root))
    s.Takes ∧ s.Sound ∧ s.keys.zeroizing = false ∧ s.WindowOf 1 99 ∧ (s.slot 31).holders = 0 ∧ ¬ s.RoomFor 1 :=
  ⟨takes_of rfl, sound_of (by decide +kernel), rfl, ⟨_, rfl, rfl, rfl⟩, by decide, crowded_room (by decide +kernel)⟩

/-- The parameters of CUST.OPEN for a FIXED D16 key in slot 31 from three parts. -/
def openParams : List Byte := be 1 31 ++ be 1 Role.fixed.code ++ be 1 KeyKind.d16.code ++ ascii "FIXEDKEY" ++ [0, 0, 0] ++ be 1 3

theorem witness_WindowNeeded : calm.Takes ∧ calm.Quiet ∧ calm.custody.window = none ∧ calm.keys.zeroizing = false
    ∧ number [31] 0 1 < 32 ∧ number [15] 0 1 < 16 ∧ openParams.length = 15 ∧ (OpenRequest.read? openParams).isSome = true
    ∧ calm.pins.tamper = false := ⟨takes_of rfl, calm_quiet, rfl, rfl, by decide, by decide, by decide, by decide, rfl⟩

/-- A group with one wrong bit. -/
def bitWrong : GroupMem := ⟨1, false, false⟩

/-- A group with a double error not yet read. -/
def doubleWrong : GroupMem := ⟨0, true, false⟩

/-- The Journal with these memories of its two counters. -/
def counters (a b : GroupMem) : Journal := { calm.journal with nextSeq := ⟨1, a⟩, released := ⟨0, b⟩ }

theorem witness_ReadErrors :
    ((slotted root).link.mode ≠ .shutdown ∧ 0 < 1
      ∧ ((slotted { root with mem := SlotMem.clean.upd .key (fun _ => bitWrong) }).slot 31).mem
        = SlotMem.clean.upd .key (fun _ => bitWrong)
      ∧ ((slotted { root with mem := SlotMem.clean.upd .range (fun _ => doubleWrong) }).slot 31).mem
        = SlotMem.clean.upd .range (fun _ => doubleWrong)
      ∧ ((slotted { root with mem := SlotMem.clean.upd .state (fun _ => doubleWrong) }).slot 31).mem
        = SlotMem.clean.upd .state (fun _ => doubleWrong)
      ∧ ((slotted { root with mem := SlotMem.clean.upd .state (fun _ => bitWrong) }).slot 31).mem
        = SlotMem.clean.upd .state (fun _ => bitWrong))
    ∧ (∀ m, m = ProfileMem.clean.upd .item4 (fun _ => bitWrong) ∨ m = ProfileMem.clean.upd .heading (fun _ => doubleWrong)
        ∨ m = ProfileMem.clean.upd .state (fun _ => doubleWrong) ∨ m = ProfileMem.clean.upd .state (fun _ => bitWrong) →
      ((calm.setProfile 15 { Profile.blank with mem := m }).profile 15).mem = m)
    ∧ (∀ m, m = bitWrong ∨ m = doubleWrong →
      (((calm.setEntry 31 { Entry.blank with control := m }).entry 31).control = m
        ∧ ((calm.setEntry 31 { Entry.blank with control := m }).entry 31).contents = GroupMem.clean)
      ∧ ((calm.setEntry 31 { Entry.blank with contents := m }).entry 31).control = GroupMem.clean
      ∧ ((calm.setEntry 31 { Entry.blank with contents := m }).entry 31).contents = m)
    ∧ ((counters bitWrong bitWrong).nextSeq.mem = bitWrong ∧ (counters bitWrong bitWrong).released.mem = bitWrong)
    ∧ (∀ a b, (a = doubleWrong ∧ b = GroupMem.clean) ∨ (a = GroupMem.clean ∧ b = doubleWrong) →
      (journaled (counters a b)).Takes ∧ (counters a b).nextSeq.mem = a ∧ (counters a b).released.mem = b
      ∧ (counters a b).flash = .idle ∧ (counters a b).rebuilding = false)
    ∧ (let j : Journal := { counters doubleWrong GroupMem.clean with runQueue := [.custody ⟨.authOpened, ⟨0, false⟩, 1, 99, []⟩] }
      j.state = .working ∧ (journaled j).link.restart ≠ .due ∧ j.nextSeq.mem = doubleWrong
      ∧ j.head? = some (.custody ⟨.authOpened, ⟨0, false⟩, 1, 99, []⟩)) := by
  refine ⟨by decide, ?_, ?_, by decide, ?_, by decide⟩
  · rintro m (rfl | rfl | rfl | rfl) <;> decide
  · rintro m (rfl | rfl) <;> decide
  · rintro a b (⟨rfl, rfl⟩ | ⟨rfl, rfl⟩) <;> exact ⟨takes_of rfl, rfl, rfl, rfl, rfl⟩

/-! ## Witnesses: Custody Unit -/

theorem windowed_calm : (windowed calm).Takes ∧ (windowed calm).Sound ∧ (windowed calm).RoomFor 2
    ∧ (windowed calm).WindowOf 1 99 :=
  ⟨takes_of rfl, sound_of (by decide +kernel), room_of (by decide +kernel), _, rfl, rfl, rfl⟩

theorem witness_AssemblyOpened : (windowed calm).Takes ∧ (windowed calm).Sound ∧ (windowed calm).RoomFor 2
    ∧ (windowed calm).WindowOf 1 99
    ∧ ((windowed calm).keys.zeroizing = false ∧ (windowed calm).pins.tamper = false
      ∧ (windowed calm).custody.assembly = none ∧ openParams.length = 15 ∧ number openParams 0 1 = (31 : SlotNo).val
      ∧ number openParams 1 1 = Role.fixed.code ∧ number openParams 2 1 = KeyKind.d16.code
      ∧ Role.fixed.allows .d16 = true ∧ (field openParams 3 8).all printable = true ∧ number openParams 14 1 = 3
      ∧ ((windowed calm).slot 31).state = .empty ∧ ((windowed calm).slot 31).holders = 0) :=
  ⟨windowed_calm.1, windowed_calm.2.1, windowed_calm.2.2.1, windowed_calm.2.2.2, by decide⟩

theorem witness_AssemblyOpened_values : ∀ ps ∈ [be 1 32 ++ openParams.drop 1, openParams.take 14 ++ be 1 4],
    ps.length = 15 ∧ ¬ ∃ (i : SlotNo) (role : Role) (kind : KeyKind), number ps 0 1 = i.val ∧ number ps 1 1 = role.code
      ∧ number ps 2 1 = kind.code ∧ role.allows kind = true ∧ (field ps 3 8).all printable = true
      ∧ (number ps 14 1 = 2 ∨ number ps 14 1 = 3) := by
  intro ps h
  simp only [List.mem_cons, List.not_mem_nil, or_false] at h
  rcases h with rfl | rfl
  · refine ⟨by decide, fun ⟨i, _, _, e, _⟩ => ?_⟩
    have : number (be 1 32 ++ openParams.drop 1) 0 1 = 32 := by decide
    omega
  · exact ⟨by decide, fun ⟨_, _, _, _, _, _, _, _, e⟩ => absurd e (by decide)⟩

theorem witness_AssemblyOpened_refused :
    (∀ s : State, s = { windowed calm with keys := { calm.keys with zeroizing := true } }
        ∨ s = { windowed calm with pins := { calm.pins with tamper := true } } →
      s.Takes ∧ s.Sound ∧ s.WindowOf 1 99 ∧ ¬ (s.keys.zeroizing = false ∧ s.pins.tamper = false))
    ∧ ((assembling assembly).Sound ∧ (assembling assembly).custody.assembly.isSome = true)
    ∧ ((crowded (windowed calm)).Sound ∧ ¬ (crowded (windowed calm)).RoomFor 2)
    ∧ ((windowed (slotted root)).Sound ∧ (windowed (slotted root)).RoomFor 2 ∧ ((windowed (slotted root)).slot 31).state ≠ .empty) := by
  refine ⟨?_, ⟨sound_of (by decide +kernel), rfl⟩, ⟨sound_of (by decide +kernel), fun r => ?_⟩, sound_of (by decide +kernel),
    room_of (by decide +kernel), by decide⟩
  · rintro s (rfl | rfl) <;> exact ⟨takes_of rfl, sound_of (by decide +kernel), ⟨_, rfl, rfl, rfl⟩, by decide⟩
  · have h : (crowded (windowed calm)).journal.free = 4 := by decide +kernel
    have := r.free
    omega

theorem witness_AssemblyEnds : ((assembling assembly).Sound ∧ (assembling assembly).Takes)
    ∧ ((assembling assembly).custody.assembly = some assembly ∧ ((assembling assembly).slot 31).state = .assembling
      ∧ (assembling assembly).link.mode ≠ .shutdown ∧ assembly.phase = .collecting
      ∧ (assembling assembly).completingUnderCheck = false
      ∧ State.completingUnderCheck { assembling assembly with custody := { (assembling assembly).custody with
        intake := [⟨.b, 99, List.replicate 16 0, [0, 0, 0]⟩], underCheck := true } } = true
      ∧ ({ assembly with phase := .combining } : Assembly).phase = .combining)
    ∧ (calm.Takes ∧ calm.custody.assembly = none) :=
  ⟨⟨sound_of (by decide +kernel), takes_of rfl⟩, by decide, takes_of rfl, rfl⟩

/-- The window open and both presences begun 300 s ago. -/
def windowOld : State := { windowed calm with link := { calm.link with clock := 300 } }

theorem witness_WindowCloses : (calm.Takes ∧ calm.link.mode ≠ .shutdown ∧ windowOld.Takes ∧ windowOld.link.mode ≠ .shutdown
      ∧ windowOld.present? .a = some 1 ∧ calm.present? .a = none ∧ calm.custody.window = none)
    ∧ (∃ w x, windowOld.custody.window = some w ∧ w.openedAt ≠ windowOld.now
      ∧ (windowOld.custody.line .a).presence = some x ∧ x.lifetimeEnd ≠ windowOld.now + 600)
    ∧ (∃ w x, (windowed calm).custody.window = some w ∧ w.openedAt = (windowed calm).now
      ∧ ((windowed calm).custody.line .a).presence = some x ∧ x.lifetimeEnd = (windowed calm).now + 600)
    ∧ (windowOld.LineHears .a ∧ windowOld.keys.zeroizing = false ∧ windowOld.present? (otherLine .a) ≠ some (1 : Byte).toNat
      ∧ ∃ t, exec (.padPresence .a 1) windowOld = .next t) :=
  ⟨⟨takes_of rfl, by decide, takes_of rfl, by decide, rfl, rfl, rfl⟩, ⟨_, _, rfl, by decide, rfl, by decide⟩,
    ⟨_, _, rfl, rfl, rfl, rfl⟩, lineHears_of (by decide), rfl, by decide, _, rfl⟩

/-- A refresh taken before the end of the lifetime that came with it: the presence goes on; after that second it can end
(R31). -/
theorem test_refresh_first : (∀ t u, exec (.padPresence .a 1) windowOld = .next t →
      exec (.presenceLifetimeEnd .a) t = .next u → u.present? .a = some 1 ∧ u.custody.window = windowOld.custody.window)
    ∧ ∀ t, exec (.presenceLifetimeEnd .a) windowOld = .next t → t.present? .a = none ∧ t.custody.window = none :=
  ⟨fun t u h k => by cases h; cases k; decide +kernel, fun t h => by cases h; decide +kernel⟩

theorem windowed_ok : (windowed calm).custody.Ok := by
  refine ⟨fun l n h => ?_, fun n h => ?_, fun w h => ?_, by decide⟩
  · cases l <;> cases h <;> decide
  · cases h; decide
  · cases h; exact ⟨rfl, rfl⟩

/-- Custodian 99 present on line B alone. -/
def second : State := { calm with custody := { calm.custody with lineB := { calm.custody.lineB with presence := some ⟨99, 600⟩ } } }

theorem second_ok : second.custody.Ok := by
  refine ⟨fun l n h => ?_, fun n h => ?_, fun w h => ?_, by decide⟩
  · cases l <;> cases h; decide
  · cases h
  · cases h

theorem witness_PresenceTaken :
    (second.custody.Ok ∧ second.LineHears .a ∧ second.keys.zeroizing = false ∧ 1 ≤ (1 : Byte).toNat ∧ (98 : Byte).toNat ≤ 99
      ∧ second.present? (otherLine .a) = some 99 ∧ second.present? .a ≠ some (1 : Byte).toNat ∧ second.RoomFor 1)
    ∧ ((windowed calm).custody.Ok ∧ (windowed calm).LineHears .a ∧ (windowed calm).present? .a = some (1 : Byte).toNat
      ∧ (windowed calm).present? (otherLine .a) ≠ some (1 : Byte).toNat ∧ (windowed calm).custody.window.isSome = true)
    ∧ ((crowded second).custody.Ok ∧ (crowded second).LineHears .a ∧ ¬ (crowded second).RoomFor 1)
    ∧ ((99 : Byte).toNat ≤ 99 ∧ second.present? (otherLine .a) = some (99 : Byte).toNat)
    ∧ (let s : State := { second with keys := { second.keys with zeroizing := true } }
      s.custody.Ok ∧ s.LineHears .a ∧ s.keys.zeroizing = true) :=
  ⟨⟨second_ok, lineHears_of (by decide), rfl, by decide, by decide, rfl, by decide, room_of (by decide +kernel)⟩,
    ⟨windowed_ok, lineHears_of (by decide), rfl, by decide, rfl⟩,
    ⟨second_ok, lineHears_of (by decide), crowded_room (by decide +kernel)⟩, ⟨by decide, rfl⟩, second_ok, lineHears_of (by decide), rfl⟩

theorem witness_WithdrawTaken : ((windowed calm).LineHears .a ∧ ((windowed calm).present? .a).isSome = true
      ∧ (windowed calm).custody.window.isSome = true)
    ∧ (second.LineHears .b ∧ (second.present? .b).isSome = true ∧ second.custody.window = none)
    ∧ calm.LineHears .b ∧ calm.present? .b = none :=
  ⟨⟨lineHears_of (by decide), rfl, rfl⟩, ⟨lineHears_of (by decide), rfl, rfl⟩, lineHears_of (by decide), rfl⟩

theorem witness_ComponentJoins : calm.LineHears .a ∧ 1 ≤ (1 : Byte).toNat ∧ (99 : Byte).toNat ≤ 99
    ∧ (List.replicate 16 (0 : Byte)).length = 16 ∧ (List.replicate 32 (0 : Byte)).length = 32 ∧ [(0 : Byte), 0, 0].length = 3 :=
  ⟨lineHears_of (by decide), by decide, by decide, by decide, by decide, rfl⟩

/-- A component of custodian `n` on line B waiting while `a` is collected. -/
def waiting (n : Nat) (a : Assembly) : State := { assembling a with custody := { (assembling a).custody with
  intake := [⟨.b, n, List.replicate 16 0, [0, 0, 0]⟩] } }

theorem witness_ComponentChecks : ∀ n, n = 98 ∨ n = 99 → ∃ e rest, (waiting n assembly).custody.intake = e :: rest
    ∧ (waiting n assembly).custody.underCheck = false
    ∧ ((waiting n assembly).present? e.line = some e.custodian ↔ n = 99) := by
  rintro n (rfl | rfl) <;> exact ⟨_, _, rfl, rfl, by decide⟩

/-- A component of custodian 99 under check, its CHECK job in flight. -/
def checking (stated : List Byte) (a : Assembly) : State := { assembling a with
  custody := { (assembling a).custody with intake := [⟨.b, 99, List.replicate 16 0, stated⟩], underCheck := true }
  engine := { calm.engine with inFlight := some ⟨⟨custodyRequester, .component, .check⟩, .d16, List.replicate 16 0, [], [], .none⟩ } }

theorem witness_PartChecked : (∃ f e rest, (checking [0x8C, 0xA6, 0x4D] assembly).link.mode = .ready
      ∧ (checking [0x8C, 0xA6, 0x4D] assembly).engine.inFlight = some f
      ∧ f.job = ⟨custodyRequester, .component, .check⟩ ∧ f.mark = .none
      ∧ (checking [0x8C, 0xA6, 0x4D] assembly).custody.assembly = some assembly ∧ assembly.phase = .collecting
      ∧ (checking [0x8C, 0xA6, 0x4D] assembly).custody.intake = e :: rest
      ∧ (checkValue f.kind f.key = e.stated ∧ assembly.parts.length + 1 = assembly.needed)
      ∧ ({ assembly with needed := 3 } : Assembly).parts.length + 1 ≠ 3
      ∧ checkValue f.kind f.key ≠ [0, 0, 0] ∧ assembly.refusals + 1 < 3 ∧ assembly.limitPassed = false)
    ∧ ∀ a, a = { assembly with refusals := 2 } ∨ a = { assembly with refusals := 1, limitPassed := true } →
      (checking [0, 0, 0] a).Sound ∧ (checking [0, 0, 0] a).custody.assembly = some a
      ∧ ((checking [0, 0, 0] a).slot a.slot).state = .assembling ∧ (3 ≤ a.refusals + 1 ↔ a.limitPassed = false) := by
  refine ⟨⟨_, _, _, rfl, rfl, rfl, rfl, rfl, rfl, rfl, ⟨by decide +kernel, rfl⟩, by decide, by decide +kernel, by decide, rfl⟩,
    ?_⟩
  rintro a (rfl | rfl) <;> exact ⟨sound_of (by decide +kernel), rfl, by decide, by decide⟩

/-- The combined key's CHECK job in flight. -/
def combining (expected : List Byte) : State :=
  { assembling { assembly with phase := .combining, expected := expected } with
    engine := { calm.engine with
      inFlight := some ⟨⟨custodyRequester, .combined, .check⟩, .d16, List.replicate 16 1, [], [], .none⟩ } }

theorem witness_KeyPlaced : ∀ expected, expected = checkValue .d16 (List.replicate 16 1) ∨ expected = [] →
    ∃ f a, (combining expected).link.mode = .ready ∧ (combining expected).Sound
    ∧ (combining expected).engine.inFlight = some f ∧ f.job = ⟨custodyRequester, .combined, .check⟩ ∧ f.mark = .none
    ∧ (combining expected).custody.assembly = some a ∧ ((combining expected).slot a.slot).state = .assembling
    ∧ (checkValue f.kind f.key = a.expected ↔ expected ≠ []) := by
  rintro e (rfl | rfl)
  · exact ⟨_, _, rfl, sound_of (by decide +kernel), rfl, rfl, rfl, rfl, by decide, by decide +kernel⟩
  · exact ⟨_, _, rfl, sound_of (by decide +kernel), rfl, rfl, rfl, rfl, by decide, by decide +kernel⟩

/-- The combined key's CHECK job in flight when its slot has become EMPTY or DAMAGED. -/
theorem witness_KeyPlaced_refused : ∀ x, x = Slot.blank ∨ x = { root with state := .damaged } →
    let s := (combining (checkValue .d16 (List.replicate 16 1))).setSlot 31 x
    ∃ f a, s.link.mode = .ready ∧ s.Sound ∧ s.engine.inFlight = some f ∧ f.mark = .none ∧ s.custody.assembly = some a
      ∧ checkValue f.kind f.key = a.expected ∧ ((s.slot a.slot).state = .empty ∨ (s.slot a.slot).state = .damaged) := by
  rintro x (rfl | rfl) <;>
    exact ⟨_, _, rfl, sound_of (by decide +kernel), rfl, rfl, rfl, by decide +kernel, by decide⟩

theorem witness_PadErrors : (calm.LineHears .a ∧ (padLengthOk [0x01, 0].length = true ∧ padRecordOk [0x01, 0] = false)
      ∧ (padLengthOk [0x01, 1].length = true ∧ (0 : BitVec 16) ≠ framedCrc [0x01, 1])
      ∧ ((0 : BitVec 16) ≠ 1 ∧ (38 : BitVec 16) ≠ 37))
    ∧ (∀ r, r = PadReceiver.awaitingQuiet ∨ r = .droppingUntilQuiet →
      (calm.updLine .a (fun x => { x with receiver := r })).link.mode = .ready
      ∧ ((calm.updLine .a (fun x => { x with receiver := r })).custody.line .a).receiver = r ∧ r ≠ .listening)
    ∧ ((waiting 99 assembly).link.mode = .ready ∧ ((waiting 99 assembly).custody.line .b).receiver = .listening
      ∧ (waiting 99 assembly).lineBusy .b = true)
    ∧ State.reset.link.mode = .starting ∧ (State.reset.custody.line .b).receiver = .listening := by
  refine ⟨⟨lineHears_of (by decide), by decide, by decide +kernel, by decide⟩, ?_, ⟨rfl, rfl, by decide⟩, rfl, rfl⟩
  rintro r (rfl | rfl) <;> exact ⟨rfl, rfl, by decide⟩

/-! ## Witnesses: Cipher Engine -/

theorem witness_EngineHeldResumed : calm.Takes := takes_of rfl

theorem witness_JobEnds : ∃ f, (verifying root none).engine.inFlight = some f
    ∧ ({ f with job := ⟨0, .slot 31, .check⟩, mark := .discarded } : InFlight).mark ≠ .none
    ∧ ({ f with job := ⟨0, .slot 31, .check⟩ } : InFlight).job.isVerify = false := ⟨_, rfl, by decide, by decide⟩

/-- Requester 16 with a job of the source given waiting at an idle engine. -/
def jobWaits (source : KeySource) (s : State) : State := { s with
  engine := { calm.engine with waiting := calm.engine.waiting.put 16 (some ⟨custodyRequester, source, .check⟩) } }

/-- A wrapping key. -/
def wrapKey : HeldKey := ⟨.a16, List.replicate 16 7⟩

theorem witness_ArbiterTurns :
    (jobWaits .combined (assembling assembly)).engine.granted? = some ⟨custodyRequester, .combined, .check⟩
    ∧ (let s := jobWaits (.slot 31) (slotted root)
      s.link.mode ≠ .shutdown ∧ s.agenda = [] ∧ s.takeUp? = none
      ∧ s.engine.granted? = some ⟨custodyRequester, .slot 31, .check⟩ ∧ (s.slot 31).mem = SlotMem.clean
      ∧ (s.slot 31).state = .active ∧ (s.slot 31).kind = some .a16)
    ∧ (let s : State := { ported { Port.blank with keyArea := { KeyArea.blank with wk := some wrapKey } } with
        engine := { calm.engine with waiting := calm.engine.waiting.put 15 (some ⟨15, .position .wk, .check⟩) } }
      s.engine.granted? = some ⟨15, .position .wk, .check⟩ ∧ (s.port 15).keyArea.get .wk = some wrapKey)
    ∧ (let s := jobWaits .component (checking [0, 0, 0] assembly)
      s.engine.granted? = some ⟨custodyRequester, .component, .check⟩ ∧ s.takeUp? = none
      ∧ s.custody.assembly = some assembly ∧ ∃ e rest, s.custody.intake = e :: rest) :=
  ⟨by decide +kernel, ⟨by decide, rfl, rfl, by decide +kernel, by decide, by decide, by decide⟩, ⟨by decide +kernel, by decide⟩,
    by decide +kernel, rfl, rfl, _, _, rfl⟩

/-! ## Witnesses: Profile Table and Recognition Table -/

/-- The window open, a TRANSPORT slot 0 and a ROOT slot 31. -/
def stocked : State := (windowed (slotted root)).setSlot 0 { root with role := some .transport }

/-- The parameters of PROF.WRITE of profile 15 with one DERIVED A32 item of usage 0x0102 at index 15. -/
def profileParams : List Byte := be 1 15 ++ ascii "PROFILE1" ++ [0, 31, 1, 1]
  ++ (be 1 1 ++ be 1 0 ++ be 1 KeyKind.a32.code ++ be 2 0x0102 ++ be 1 15) ++ List.replicate 18 0

theorem stocked_valid : stocked.ProfileValid (ProfileRequest.read profileParams) where
  heading := by decide +kernel
  transport := ⟨0, by decide +kernel, by decide +kernel, by decide +kernel⟩
  root := ⟨31, by decide +kernel, by decide +kernel, by decide +kernel⟩
  items i h := by
    have : i = ⟨1, 0, KeyKind.a32.code, 0x0102, 15⟩ := by
      have e : (ProfileRequest.read profileParams).items = [⟨1, 0, KeyKind.a32.code, 0x0102, 15⟩] := by decide +kernel
      rw [e] at h; simpa using h
    subst this
    exact ⟨by decide +kernel, by decide, by decide, nofun⟩
  usages := by decide +kernel
  indexes := by decide +kernel
  derived := ⟨⟨1, 0, KeyKind.a32.code, 0x0102, 15⟩, by decide +kernel, rfl⟩

theorem stocked_fit : stocked.Takes ∧ stocked.Sound ∧ stocked.RoomFor 1 ∧ stocked.WindowOf 1 99 :=
  ⟨takes_of rfl, sound_of (by decide +kernel), room_of (by decide +kernel), _, rfl, rfl, rfl⟩

theorem witness_ProfileWritten : stocked.Takes ∧ stocked.Sound ∧ stocked.RoomFor 1 ∧ stocked.WindowOf 1 99
    ∧ (profileParams.length = 37 ∧ number profileParams 0 1 = (15 : Fin 16).val ∧ (stocked.profile 15).holders = 0)
    ∧ stocked.ProfileValid (ProfileRequest.read profileParams) :=
  ⟨stocked_fit.1, stocked_fit.2.1, stocked_fit.2.2.1, stocked_fit.2.2.2, by decide, stocked_valid⟩

/-- The parameters of PROF.WRITE of profile 15 with this transport slot and these item records. -/
def profileAsk (transport : Byte) (items : List (List Byte)) : List Byte := be 1 15 ++ ascii "PROFILE1" ++ [transport, 31, 1]
  ++ be 1 items.length ++ items.flatten ++ List.replicate (24 - 6 * items.length) 0

/-- An item record with usage code 0x0102 and index 15: its source code and FIXED slot. -/
def itemAsk (source slot : Byte) : List Byte := [source, slot, 0x41, 1, 2, 15]

/-- The same with a FIXED slot 5. -/
def stockedFixed : State := stocked.setSlot 5 { root with role := some .fixed }

theorem stockedFixed_fits : stockedFixed.SlotFits 0 .transport none ∧ stockedFixed.SlotFits 31 .root none
    ∧ stockedFixed.SlotFits 5 .fixed (some .a16) ∧ ¬ stockedFixed.SlotFits 31 .transport none
    ∧ ¬ stockedFixed.SlotFits 31 .fixed none := by
  refine ⟨⟨0, by decide +kernel⟩, ⟨31, by decide +kernel⟩, ⟨5, by decide +kernel⟩, ?_, ?_⟩ <;>
    (rintro ⟨i, h, -, k, -⟩; rw [show i = 31 from Fin.ext h] at k; exact absurd k (by decide +kernel))

theorem witness_ProfileWritten_refused :
    (∀ params, params = List.replicate 37 0 ∨ params = profileAsk 31 [itemAsk 1 0] ∨ params = profileAsk 0 [itemAsk 3 0]
        ∨ params = profileAsk 0 [itemAsk 2 31] ∨ params = profileAsk 0 [itemAsk 1 0, itemAsk 1 0]
        ∨ params = profileAsk 0 [itemAsk 2 5] → params.length = 37)
    ∧ (stockedFixed.Takes ∧ stockedFixed.Sound ∧ stockedFixed.WindowOf 1 99 ∧ (stockedFixed.profile 15).holders = 0)
    ∧ (ProfileRequest.read (List.replicate 37 0)).label.all printable = false
    ∧ (ProfileRequest.read (profileAsk 31 [itemAsk 1 0])).transport = 31
    ∧ ((ProfileRequest.read (profileAsk 0 [itemAsk 3 0])).items = [⟨3, 0, 0x41, 0x0102, 15⟩]
      ∧ stockedFixed.ItemFails [] ⟨3, 0, 0x41, 0x0102, 15⟩ .field)
    ∧ ((ProfileRequest.read (profileAsk 0 [itemAsk 2 31])).items = [⟨2, 31, 0x41, 0x0102, 15⟩]
      ∧ stockedFixed.ItemFails [] ⟨2, 31, 0x41, 0x0102, 15⟩ .role)
    ∧ ((ProfileRequest.read (profileAsk 0 [itemAsk 1 0, itemAsk 1 0])).items = List.replicate 2 ⟨1, 0, 0x41, 0x0102, 15⟩
      ∧ (∀ c, ¬ stockedFixed.ItemFails [] ⟨1, 0, 0x41, 0x0102, 15⟩ c)
      ∧ stockedFixed.ItemFails [⟨1, 0, 0x41, 0x0102, 15⟩] ⟨1, 0, 0x41, 0x0102, 15⟩ .repeated)
    ∧ ((ProfileRequest.read (profileAsk 0 [itemAsk 2 5])).items = [⟨2, 5, 0x41, 0x0102, 15⟩]
      ∧ ∀ c, ¬ stockedFixed.ItemFails [] ⟨2, 5, 0x41, 0x0102, 15⟩ c)
    ∧ (crowded stocked).Sound ∧ ¬ (crowded stocked).RoomFor 1 := by
  obtain ⟨-, -, fit, -, root⟩ := stockedFixed_fits
  refine ⟨by rintro p (rfl | rfl | rfl | rfl | rfl | rfl) <;> decide +kernel,
    ⟨takes_of rfl, sound_of (by decide +kernel), ⟨_, rfl, rfl, rfl⟩, by decide⟩, by decide +kernel, by decide +kernel,
    ⟨by decide +kernel, by simp [State.ItemFails]⟩, ⟨by decide +kernel, ?_⟩, ⟨by decide +kernel, ?_, ?_⟩, ⟨by decide +kernel, ?_⟩,
    sound_of (by decide +kernel), crowded_room (by decide +kernel)⟩
  · simpa [State.ItemFails] using root
  · rintro (_ | _ | _ | _ | _ | _) <;> simp [State.ItemFails]
  · simp [State.ItemFails]
  · have fixed : stockedFixed.SlotFits 5 .fixed none := let ⟨i, h, k, l, _⟩ := fit; ⟨i, h, k, l, nofun⟩
    rintro (_ | _ | _ | _ | _ | _) <;> simp [State.ItemFails, fixed]
    exact fit

/-- The contents those parameters stand for. -/
def data : ProfileData := ⟨ascii "PROFILE1", 0, 31, true, [⟨.derived, .a32, 0x0102, 15⟩]⟩

/-- Profile 15 with these contents and holders. -/
def profiled (holders : Nat) (s : State) : State := s.setProfile 15 ⟨.defined, some data, holders, ProfileMem.clean⟩

theorem witness_ProfileDeleted : ((profiled 0 stocked).Takes ∧ (profiled 0 stocked).Sound ∧ (profiled 0 stocked).WindowOf 1 99
      ∧ (profiled 0 stocked).RoomFor 1 ∧ [(15 : Byte)].length = 1 ∧ number [15] 0 1 = (15 : Fin 16).val
      ∧ ((profiled 0 stocked).profile 15).holders = 0 ∧ (profiled 0 stocked).ordersNaming 15 = 0
      ∧ ((profiled 0 stocked).profile 15).state ≠ .undefined)
    ∧ (profiled 1 stocked).Sound ∧ 0 < ((profiled 1 stocked).profile 15).holders :=
  ⟨⟨takes_of rfl, sound_of (by decide +kernel), ⟨_, rfl, rfl, rfl⟩, room_of (by decide +kernel), rfl, by decide, by decide,
    by decide, by decide⟩, sound_of (by decide +kernel), by decide⟩

theorem witness_ProfileDeleted_refused : (stocked.Sound ∧ (stocked.profile 15).state = .undefined
      ∧ (stocked.profile 15).holders = 0 ∧ stocked.ordersNaming 15 = 0)
    ∧ (crowded (profiled 0 stocked)).Sound ∧ ((crowded (profiled 0 stocked)).profile 15).state ≠ .undefined
      ∧ ¬ (crowded (profiled 0 stocked)).RoomFor 1 :=
  ⟨⟨stocked_fit.2.1, by decide, by decide, by decide⟩, sound_of (by decide +kernel), by decide, crowded_room (by decide +kernel)⟩

/-- Entry 31 as given. -/
def entered (e : Entry) : State := (windowed calm).setEntry 31 e

/-- The parameters of MATCH.WRITE of entry 31 with the longest serial prefix and target 15. -/
def matchParams : List Byte := be 1 31 ++ be 4 1 ++ be 4 0xFFFFFFFF ++ be 1 8 ++ ascii "SERIAL01" ++ be 1 15

theorem witness_EntriesChanged : ∀ e, e = Entry.blank ∨ e = { Entry.blank with written := true }
      ∨ e = { Entry.blank with written := true, enabled := true } →
    (entered e).Takes ∧ (entered e).Sound ∧ (entered e).RoomFor 1 ∧ (entered e).WindowOf 1 99 ∧ (entered e).entry 31 = e
    ∧ number [31] 0 1 = (31 : Fin 32).val
    ∧ (number matchParams 0 1 = (31 : Fin 32).val ∧ matchParams.length = 19 ∧ number matchParams 9 1 ≤ 8
      ∧ (∀ c ∈ field matchParams 10 (number matchParams 9 1), 0x20 ≤ c.toNat ∧ c.toNat ≤ 0x7E)
      ∧ number matchParams 18 1 ≤ 15)
    ∧ ((entered { e with targetLost := true }).Sound ∧ (entered { e with targetLost := true }).RoomFor 1)
    ∧ ((crowded (entered e)).Takes ∧ (crowded (entered e)).Sound ∧ (crowded (entered e)).WindowOf 1 99
      ∧ ¬ (crowded (entered e)).RoomFor 1)
    ∧ (number (be 1 31 ++ List.replicate 18 16) 0 1 = (31 : Fin 32).val ∧ (be 1 31 ++ List.replicate 18 (16 : Byte)).length = 19
      ∧ 8 < number (be 1 31 ++ List.replicate 18 16) 9 1 ∧ 15 < number (be 1 31 ++ List.replicate 18 16) 18 1) := by
  rintro e (rfl | rfl | rfl) <;>
    exact ⟨takes_of rfl, sound_of (by decide +kernel), room_of (by decide +kernel), ⟨_, rfl, rfl, rfl⟩, by decide, by decide,
      by decide, ⟨sound_of (by decide +kernel), room_of (by decide +kernel)⟩, ⟨takes_of rfl, sound_of (by decide +kernel),
      ⟨_, rfl, rfl, rfl⟩, crowded_room (by decide +kernel)⟩, by decide +kernel⟩

/-! ## Witnesses: Order Table -/

/-- The parameters of ORD.PLACE: order 65535 of profile 15 for 9999 units, spoil limit 99. -/
def placeParams : List Byte := be 2 65535 ++ be 1 15 ++ be 2 9999 ++ be 1 99

theorem witness_OrderPlaced : ∀ k, k = 0 ∨ k = 1 → (profiled k calm).Takes ∧ (profiled k calm).Sound
    ∧ (placeParams.length = 6 ∧ number placeParams 0 2 ≠ 0 ∧ number placeParams 2 1 = (15 : Fin 16).val
      ∧ 1 ≤ number placeParams 3 2 ∧ number placeParams 3 2 ≤ 9999 ∧ number placeParams 5 1 ≤ 99)
    ∧ ((profiled k calm).profile 15).state = .defined ∧ ((profiled k calm).order? 65535).isSome = false
    ∧ (profiled k calm).orders.orders.length < 24 ∧ (profiled k calm).orders.placements < 0xFFFFFFFF := by
  rintro k (rfl | rfl) <;> exact ⟨takes_of rfl, sound_of (by decide +kernel), by decide, by decide, by decide, by decide, by decide⟩

theorem witness_OrderPlaced_values : calm.Takes ∧ ∀ ps ∈ [be 2 0 ++ placeParams.drop 2, be 2 1 ++ be 1 16 ++ placeParams.drop 3,
      placeParams.take 3 ++ be 2 0 ++ be 1 99, placeParams.take 3 ++ be 2 10000 ++ be 1 99, placeParams.take 5 ++ be 1 100],
    ps.length = 6 ∧ (number ps 0 2 = 0 ∨ 16 ≤ number ps 2 1 ∨ number ps 3 2 = 0 ∨ 9999 < number ps 3 2 ∨ 99 < number ps 5 1) :=
  ⟨takes_of rfl, by decide⟩

/-- Orders in each state that the requests tell apart. -/
theorem orders_ok : ∀ o ∈ [order .queued none 9999 0 [], order .running none 0 1 [15], order .held (some .zeroized) 1 1 [0],
    order .draining none 0 1 [0], order .done none 0 0 [], order .aborted none 0 0 []],
    (ordered o).orders.Ok ∧ (ordered o).Takes ∧ (ordered o).order? (number (be 2 65535) 0 2) = some o := by
  intro o h
  simp only [List.mem_cons, List.not_mem_nil, or_false] at h
  rcases h with rfl | rfl | rfl | rfl | rfl | rfl <;>
    exact ⟨oneOrder_ok (by decide), takes_of rfl, by decide⟩

theorem witness_OrderAmended : (∃ o ∈ [order .queued none 9999 0 []], (ordered o).orders.Ok ∧ (ordered o).Takes
      ∧ (be 2 65535 ++ be 2 0 ++ be 1 99).length = 5
      ∧ (ordered o).order? (number (be 2 65535 ++ be 2 0 ++ be 1 99) 0 2) = some o
      ∧ ¬ 99 < number (be 2 65535 ++ be 2 0 ++ be 1 99) 4 1 ∧ o.state = .queued
      ∧ (ordered o).order? (number (be 2 65535 ++ be 2 0 ++ be 1 100) 0 2) = some o
      ∧ 99 < number (be 2 65535 ++ be 2 0 ++ be 1 100) 4 1) :=
  ⟨_, List.mem_singleton.mpr rfl, oneOrder_ok (by decide), takes_of rfl, rfl, by decide, by decide, rfl, by decide, by decide⟩

theorem witness_OrdersHeldReleased : ∀ o ∈ [order .queued none 9999 0 [], order .held (some .zeroized) 1 1 [0],
    order .done none 0 0 []], (ordered o).Takes ∧ (ordered o).orders.Ok ∧ (be 2 65535).length = 2
      ∧ (ordered o).order? (number (be 2 65535) 0 2) = some o := by
  intro o h
  have := orders_ok o (by simp at h ⊢; rcases h with h | h | h <;> simp [h])
  exact ⟨this.2.1, this.1, rfl, this.2.2⟩

/-- An aborted order with one unit in progress. -/
def ending : Order := { order .draining none 0 1 [15] with abortRequested := true }

theorem witness_OrderEnded : (∀ o ∈ [order .running none 0 1 [15], order .queued none 9999 0 [], order .draining none 0 1 [0],
      order .done none 0 0 [], order .aborted none 0 0 []], (ordered o).Takes ∧ (ordered o).orders.Ok ∧ (be 2 65535).length = 2
        ∧ (ordered o).order? (number (be 2 65535) 0 2) = some o)
    ∧ ∀ d, d = none ∨ d = some 7 →
      let x : Session := { (Session.created ⟨1, 2, [], 3, true, true, true, 15, true⟩) with
        unitHeld := true, order := some 65535, device := d }
      let s : State := { ordered ending with
        ports := calm.ports.put 15 { Port.blank with session := some x }, agenda := [.abortNotice 15] }
      s.link.mode ≠ .shutdown ∧ s.session? 15 = some x ∧ s.StatesSound ∧ s.order? 65535 = some ending
      ∧ ending.abortRequested = true := by
  refine ⟨fun o h => ?_, ?_⟩
  · have := orders_ok o (by simp at h ⊢; rcases h with h | h | h | h | h <;> simp [h])
    exact ⟨this.2.1, this.1, rfl, this.2.2⟩
  · rintro d (rfl | rfl) <;> exact ⟨by decide, by decide, states_of (by decide +kernel), by decide, rfl⟩

theorem witness_UnitCountsBalance : (∃ t, State.reset.Ok ∧ step State.reset = .next t)
    ∧ (ordered (order .running none 0 1 [15])).orders.Ok := ⟨⟨_, reset_ok, rfl⟩, oneOrder_ok (by decide)⟩

theorem witness_UnitsServed : ((ordered (order .queued none 1 0 [])).oldestEligible? 15 = some (order .queued none 1 0 [])
      ∧ ((ordered (order .queued none 1 0 [])).setWaiting 15 [0, 15]).waitingList 15 = [0, 15])
    ∧ (∃ o ∈ [order .running none 0 1 [15]], (ordered o).orders.Ok ∧ (ordered o).order? 65535 = some o
      ∧ 15 ∈ o.unitHolders ∧ o.state ≠ .done ∧ o.state ≠ .aborted)
    ∧ ∀ o, (ordered (order .running none 0 1 [15])).order? 65535 = some o → 0 ∉ o.unitHolders :=
  ⟨by decide, ⟨_, List.mem_singleton.mpr rfl, oneOrder_ok (by decide), by decide, by decide, by decide, by decide⟩,
    fun o h => by have : order .running none 0 1 [15] = o := by simpa [ordered, State.order?, order] using h
                  subst this; decide⟩

/-! ## Witnesses: bench ports -/

theorem witness_PortSettings : calm.Takes ∧ (be 1 15 ++ List.replicate 10 0).length = 11
    ∧ number (be 1 15 ++ List.replicate 10 0) 0 1 = (15 : PortNo).val := ⟨takes_of rfl, by decide, by decide⟩

/-- A session just greeted. -/
def guest : Session := Session.created ⟨1, 2, ascii "SERIAL01", 3, true, true, true, 15, true⟩

/-- Port 15 in a state, with a session, in step. -/
def seated (t : PortState) (x : Option Session) : State := ported { Port.blank with state := t, inStep := true, session := x }

/-- Segment 63 open with `n` places used. -/
def opened (n : Nat) (f : Flash) (q : List QueueEntry) : Journal := { calm.journal with
  segments := calm.journal.segments.put 63 ⟨openedHeader 1, List.replicate n ⟨List.replicate 80 0, false⟩, .active⟩
  nextSeq := ⟨1, GroupMem.clean⟩, promised := 1, runQueue := q, flash := f }

/-- The settlement of port 15 for the record in place 0 of segment 63. -/
def settling (due : Option Nat) (awaited : Bool) : SettlementEntry :=
  ⟨some ⟨1, 63, 0⟩, some 15, ⟨.complete, .none, ⟨0, false⟩, []⟩, awaited, due⟩

/-- Its program. -/
def settleProgram : Flash := .programming (.settle (settlementBytes ⟨.complete, .none, ⟨0, false⟩, []⟩))

theorem witness_PortRequests : (∀ t x, (seated t x).Takes) ∧ [(15 : Byte)].length = 1 ∧ number [15] 0 1 = (15 : PortNo).val
    ∧ (∀ t x, ((seated t x).port 15).state = t ∧ (seated t x).session? 15 = x)
    ∧ (seated .inSession (some { guest with waiting := true })).Sound
    ∧ ({ guest with waiting := true } : Session).waiting = true ∧ guest.waiting = false
    ∧ (seated .inSession (some { guest with phase := .closing })).Sound ∧ guest.phase ≠ .settling
    ∧ ∀ f, f = Flash.idle ∨ f = settleProgram →
      let s : State := { seated .inSession (some { guest with phase := .settling }) with journal := opened 1 f [.settle (settling none true)] }
      s.Takes ∧ s.Sound ∧ s.session? 15 = some { guest with phase := .settling } ∧ (f ≠ .idle → s.journal.Settles 15)
        ∧ (f = .idle → ¬ s.journal.Settles 15) := by
  refine ⟨fun _ _ => takes_of rfl, rfl, by decide, fun _ _ => ⟨rfl, rfl⟩, sound_of (by decide +kernel), rfl, rfl,
    sound_of (by decide +kernel), by decide, ?_⟩
  rintro f (rfl | rfl)
  · exact ⟨takes_of rfl, sound_of (by decide +kernel), rfl, fun h => absurd rfl h, fun _ ⟨_, _, h, _⟩ => nomatch h⟩
  · exact ⟨takes_of rfl, sound_of (by decide +kernel), rfl, fun _ => ⟨_, _, rfl, rfl, rfl⟩, fun h => nomatch h⟩

theorem witness_LineEvents : shut.link.mode = .shutdown ∧ (seated .dormant none).link.mode ≠ .shutdown
    ∧ ∀ t, t = PortState.cooldown ∨ t = .readmitting → ∀ k, k = 0 ∨ k = 3 →
      let s : State := { seated t none with link := { calm.link with clock := k } }
      s.link.mode ≠ .shutdown ∧ (s.port 15).state = t ∧ (k = 3 ↔ (s.port 15).timerFrom ≠ s.now) := by
  refine ⟨rfl, by decide, ?_⟩
  rintro t (rfl | rfl) k (rfl | rfl) <;> decide

/-- Port 15 as above with a score. -/
def scored (n : Nat) (x : Option Session) : State :=
  ported { Port.blank with state := .inSession, inStep := true, session := x, score := n }

/-- WELCOME awaiting its READY for the `n`th time. -/
def awaiting (n : Nat) : Session := { guest with retry := n, seq := 1, awaited := some ⟨.welcome, 1, [0x3C], 1000⟩ }

theorem witness_LineErrors : (∀ n, n = 88 ∨ n = 247 ∨ n = 248 →
      (scored n none).link.mode ≠ .shutdown ∧ (scored n (some guest)).Sound
      ∧ ((scored n none).lineErrorOf (.benchCut 15 [0x3C]) = some (15, .cut)
        ∧ (scored n (some (awaiting 3))).lineErrorOf (.responseTimeout 15) = some (15, .timeout)
        ∧ (scored n (some guest)).lineErrorOf (.benchLengthError 15 [0x3C, 97]) = some (15, .length)
        ∧ (scored n (some guest)).lineErrorOf (.benchCheckError 15 [0x3C, 2, 0x22, 1, 0, 0]) = some (15, .check))
      ∧ ((248 ≤ n ↔ 256 ≤ ((scored n none).port 15).score + 8) ∧ (scored n none).session? 15 = none
        ∧ guest.phase ≠ .settling ∧ guest.phase ≠ .closing ∧ guest.awaited = none
        ∧ (awaiting 2).retry < Settings.default.retryLimit ∧ Settings.default.retryLimit ≤ (awaiting 3).retry))
    ∧ ∀ ph, ph = Phase.settling ∨ ph = .closing → ∀ f, f = Flash.idle ∨ f = settleProgram →
      let s : State := { scored 247 (some { awaiting 3 with phase := ph }) with journal := opened 1 f [.settle (settling none true)] }
      s.Sound ∧ s.lineErrorOf (.responseTimeout 15) = some (15, .timeout) ∧ s.session? 15 = some { awaiting 3 with phase := ph } := by
  refine ⟨?_, ?_⟩
  · rintro n (rfl | rfl | rfl) <;> exact ⟨by decide, sound_of (by decide +kernel), by decide +kernel, by decide⟩
  · rintro ph (rfl | rfl) f (rfl | rfl) <;> exact ⟨sound_of (by decide +kernel), by decide +kernel, rfl⟩

/-! ## Witnesses: sessions -/

/-- The payload of a HELLO with the serial given. -/
def helloPayload (serial : List Byte) : List Byte := be 2 1 ++ be 2 2 ++ be 2 3 ++ [1, 1, 1, 15, 1] ++ serial

/-- Its characters on a port with default settings. -/
def helloChars (serial : List Byte) : List Byte := Settings.default.frameChars 0x21 0 (helloPayload serial)

/-- An enabled entry 31 that takes every terminal, for profile 15. -/
def open31 : Entry := { Entry.blank with written := true, enabled := true, target := 15 }

/-- Port 15 listening, with entry 31 as given and profile 15 DEFINED. -/
def listening (e : Entry) : State := (profiled 0 (seated .listening none)).setEntry 31 e

theorem witness_SessionGreeted : (∀ serial, serial = [] ∨ serial = ascii "S" →
      (listening open31).Receives 15 (helloChars serial) (.good ⟨0x21, 0, helloPayload serial⟩)
      ∧ (helloTerminal (helloPayload serial)).serial = serial)
    ∧ ((listening open31).port 15).state = .listening ∧ (listening open31).Sound
    ∧ ((∀ i, ((listening Entry.blank).entry i).enabled = false) ∧ ((listening open31).entry 31).enabled = true
      ∧ (∀ k : Fin 32, k < 31 → ((listening open31).entry k).enabled = false) ∧ ((listening open31).entry 31).target = (15 : Fin 16).val
      ∧ ((listening open31).profile 15).state = .defined ∧ ((listening open31).profile 15).contents = some data
      ∧ ((seated .listening none).profile 15).state ≠ .defined)
    ∧ (seated .inSession (some guest)).Receives 15 (helloChars []) (.good ⟨0x21, 0, helloPayload []⟩) := by
  refine ⟨?_, rfl, sound_of (by decide +kernel), by decide +kernel, receives_of (by decide +kernel)⟩
  rintro serial (rfl | rfl) <;> exact ⟨receives_of (by decide +kernel), by decide +kernel⟩

/-- A session that awaits the answer to a frame of the kind given, in the phase given, with one item held. -/
def asked (k : FrameType) (ph : Phase) : Session := { guest with
  phase := ph, seq := 255, awaited := some ⟨k, 255, [0x3C], 1000⟩, profile := some ⟨15, data⟩
  items := [⟨.wrapped, some [1, 2, 3], some [0]⟩] }

/-- Port 15 with that session, in the phase given, awaiting the READY of a WAIT, and WK and AK in its key area. -/
def wrapped (ph : Phase) : State := ported { Port.blank with
  state := .inSession, inStep := true, session := some (asked .wait ph)
  keyArea := { KeyArea.blank with wk := some ⟨.a16, [1]⟩, ak := some ⟨.a16, [2]⟩ } }

/-- A session whose last WRAP has ended while a WAIT awaits READY stays in DERIVING, and READY makes it enter LOADING
with the first LOAD (section 8.10). -/
theorem test_loading_after_ready :
    (((wrapped .deriving).goDeriving 15).session? 15).map (·.phase) = some .deriving
    ∧ (match execReady 15 (Settings.default.frameChars 0x22 255 []) (wrapped .deriving) with
      | .next t => (t.session? 15).map (fun x => (x.phase, x.awaited.map (·.kind)))
      | _ => none) = some (.loading, some .load) := by decide +kernel

theorem witness_AnswersTaken :
    (seated .inSession (some (asked .welcome .greeting))).Answered 15 (Settings.default.frameChars 0x22 255 [])
      (asked .welcome .greeting) ⟨0x22, 255, []⟩
    ∧ ((wrapped .deriving).Answered 15 (Settings.default.frameChars 0x22 255 []) (asked .wait .deriving) ⟨0x22, 255, []⟩
      ∧ (asked .wait .deriving).nextJob 15 ((wrapped .deriving).port 15).keyArea = none)
    ∧ (seated .pausing (some (asked .wait .closing))).Answered 15 (Settings.default.frameChars 0x22 255 [])
      (asked .wait .closing) ⟨0x22, 255, []⟩
    ∧ (∀ c, c = [1, 2, 3] ∨ c = [1, 2, 4] → (seated .inSession (some (asked .load .loading))).Answered 15
      (Settings.default.frameChars 0x23 255 c) (asked .load .loading) ⟨0x23, 255, c⟩)
    ∧ (seated .inSession (some (asked .load .loading))).Answered 15 (Settings.default.frameChars 0x24 255 [1])
      (asked .load .loading) ⟨0x24, 255, [1]⟩
    ∧ (seated .inSession (some (asked .commit .committing))).Answered 15 (Settings.default.frameChars 0x25 255 [])
      (asked .commit .committing) ⟨0x25, 255, []⟩
    ∧ (seated .inSession (some (asked .commit .committing))).Sound
    ∧ (seated .inSession (some (asked .welcome .greeting))).Receives 15 (Settings.default.frameChars 0x22 254 [])
      (.good ⟨0x22, 254, []⟩) := by
  refine ⟨⟨receives_of (by decide +kernel), rfl, _, rfl, rfl, rfl⟩,
    ⟨⟨receives_of (by decide +kernel), rfl, _, rfl, rfl, rfl⟩, by decide⟩, ⟨receives_of (by decide +kernel), rfl, _, rfl, rfl, rfl⟩, ?_, ⟨receives_of (by decide +kernel), rfl, _, rfl, rfl, rfl⟩,
    ⟨receives_of (by decide +kernel), rfl, _, rfl, rfl, rfl⟩, sound_of (by decide +kernel), receives_of (by decide +kernel)⟩
  rintro c (rfl | rfl) <;> exact ⟨receives_of (by decide +kernel), rfl, _, rfl, rfl, rfl⟩

theorem witness_AnswersTaken_wait : ∀ ph, ph = Phase.assigning ∨ ph = .allocating ∨ ph = .deriving ∨ ph = .settling →
    (seated .inSession (some (asked .wait ph))).Answered 15 (Settings.default.frameChars 0x22 255 []) (asked .wait ph)
      ⟨0x22, 255, []⟩ ∧ ((asked .wait ph).nextJob 15
        ((seated .inSession (some (asked .wait ph))).port 15).keyArea).isSome = true := by
  rintro ph (rfl | rfl | rfl | rfl) <;> exact ⟨⟨receives_of (by decide +kernel), rfl, _, rfl, rfl, rfl⟩, by decide⟩

theorem witness_SessionWaits : ∃ x, (seated .inSession (some x)).link.mode ≠ .shutdown
    ∧ (seated .inSession (some x)).session? 15 = some x ∧ x.awaited = none ∧ x.phase = .assigning ∧ x.waiting = true
    ∧ (seated .inSession (some x)).Sound ∧ (asked .wait .settling).awaited.isSome = true ∧ guest.waiting = false
    ∧ (15 : PortNo) ∈ ({ calm.journal with waiters := [0, 15] } : Journal).waiters :=
  ⟨{ guest with phase := .assigning, waiting := true }, by decide, rfl, rfl, rfl, rfl, sound_of (by decide +kernel), rfl, rfl,
    by decide⟩

/-- A session with a unit of order 65535 and profile 15, in the phase given. -/
def worker (ph : Phase) : Session := { guest with
  phase := ph, unitHeld := true, order := some 65535, profile := some ⟨15, data⟩, profileHeld := true
  items := [ItemEntry.opened] }

/-- The session on port 15, slot 31 the root slot as given, with one consequence ahead. -/
def working (x : Session) (r : Slot) (task : Task) : State := { (profiled 1 stocked).setSlot 31 r with
  ports := (stocked.ports).put 15 { Port.blank with state := .inSession, inStep := true, session := some x }
  orders := (ordered (order .running none 1 1 [15])).orders, agenda := [task] }

/-- The root slot with a range record whose next number is the one given and the last 5. -/
def ranged (next : Nat) : Slot := { root with range := some ⟨7, 1, 5, next, 2, false⟩ }

theorem witness_HoldsTaken :
    (shut.link.mode = .shutdown ∧ calm.link.mode ≠ .shutdown ∧ calm.keys.zeroizing = false ∧ calm.Sound
      ∧ ({ calm with keys := { calm.keys with zeroizing := true } } : State).keys.zeroizing = true)
    ∧ (∀ r, r = ranged 5 ∨ r = { ranged 5 with state := .suspended } →
      (let s := working (worker .assigning) r (.unitHanded 15)
      s.link.mode ≠ .shutdown ∧ s.keys.zeroizing = false ∧ s.Sound ∧ s.agenda = [.unitHanded 15]
      ∧ s.session? 15 = some (worker .assigning) ∧ (worker .assigning).phase = .assigning
      ∧ (worker .assigning).unitHeld = true ∧ (worker .assigning).profile = some ⟨15, data⟩
      ∧ (s.profile 15).state = .defined
      ∧ ((∀ n ∈ data.needs, (n.1 ∈ (worker .assigning).slotHolds ∨ (s.slot n.1).state = .active)
        ∧ (s.slot n.1).role = some n.2.1 ∧ (n.2.2 = none ∨ (s.slot n.1).kind = n.2.2)) ↔ r.state = .active)))
    ∧ ((working (worker .assigning) root (.unitHanded 15)).setProfile 15 Profile.blank).Sound
    ∧ (Profile.blank.state ≠ .defined)
    ∧ (calm.journal.state = .working ∧ 4 < ({ calm.journal with promised := 8187 } : Journal).free
      ∧ ¬ 4 < ({ calm.journal with promised := 8188 } : Journal).free ∧ calm.journal.waiters = []
      ∧ (∀ e ∈ calm.journal.runQueue, e.ofPort 15 = false)
      ∧ ({ calm.journal with state := .fault } : Journal).state ≠ .working) := by
  refine ⟨⟨rfl, by decide, rfl, sound_of (by decide +kernel), rfl⟩, ?_, sound_of (by decide +kernel), by decide,
    by decide +kernel⟩
  rintro r (rfl | rfl) <;>
    exact ⟨by decide, rfl, sound_of (by decide +kernel), rfl, rfl, rfl, rfl, rfl, by decide +kernel, by decide +kernel⟩

theorem witness_NumberAllocated :
    (shut.link.mode = .shutdown ∧ ({ calm with keys := { calm.keys with zeroizing := true } } : State).keys.zeroizing = true)
    ∧ (∀ r, r = Slot.blank ∨ r = root ∨ r = ranged 5 ∨ r = ranged 6 → ((slotted r).slot 31).mem = SlotMem.clean)
    ∧ (∀ g, g = SlotGroup.state ∨ g = .range →
      let s := slotted { ranged 5 with mem := SlotMem.clean.upd g (fun _ => doubleWrong) }
      (s.slot 31).state = .active ∧ (s.slot 31).mem = SlotMem.clean.upd g (fun _ => doubleWrong))
    ∧ ∀ r, r = root ∨ r = ranged 5 ∨ r = ranged 6 →
      let x : Session := { worker .allocating with placeAccepted := true }
      let s := working x r (.placeAccepted 15)
      s.link.mode ≠ .shutdown ∧ s.keys.zeroizing = false ∧ s.Sound ∧ s.agenda = [.placeAccepted 15]
      ∧ s.session? 15 = some x ∧ x.phase = .allocating ∧ x.placeAccepted = true ∧ x.device = none
      ∧ x.profile = some ⟨15, data⟩ := by
  refine ⟨⟨rfl, rfl⟩, ?_, ?_, ?_⟩
  · rintro r (rfl | rfl | rfl | rfl) <;> decide
  · rintro g (rfl | rfl) <;> decide
  · rintro r (rfl | rfl | rfl) <;> exact ⟨by decide, rfl, sound_of (by decide +kernel), rfl, rfl, rfl, rfl, rfl, rfl⟩

theorem witness_NextRisesByAllocation :
    (∃ t, isReset .secondsTick = false ∧ exec .secondsTick (slotted (ranged 5)) = .next t
      ∧ ((slotted (ranged 5)).slot 31).range.isSome = true ∧ (t.slot 31).range.isSome = true)
    ∧ (let s := working { worker .allocating with placeAccepted := true } (ranged 5) (.placeAccepted 15)
      ∃ t, s.react? = some t ∧ (s.slot 31).range = some ⟨7, 1, 5, 5, 2, false⟩
        ∧ (t.slot 31).range = some ⟨7, 1, 5, 6, 2, true⟩) :=
  ⟨⟨_, rfl, rfl, by decide, by decide⟩, _, rfl, by decide, by decide +kernel⟩

/-- A key area with the wrapping and the authentication key. -/
def keyed : KeyArea := { KeyArea.blank with wk := some wrapKey, ak := some wrapKey }

/-- A session in DERIVING with its only item in the state given. -/
def deriver (state : ItemState) : Session := { worker .deriving with
  transportKind := some .a16, items := [⟨state, some [1, 2, 3], none⟩], record := some ⟨1, 63, 0⟩ }

/-- Port 15 with that session and the engine as given. -/
def deriving15 (x : Session) (e : Engine) (r : Slot) : State := { (seated .inSession (some x)).setSlot 31 r with engine := e }

/-- A job of port 15 in flight. -/
def flying (work : JobWork) : Engine := { calm.engine with
  inFlight := some ⟨⟨15, .slot 31, work⟩, .a16, List.replicate 16 0, List.replicate 16 7, List.replicate 16 7, .none⟩ }

theorem witness_SessionJobs :
    (let x : Session := { deriver .opened with phase := .allocating }
      let s : State := { seated .inSession (some x) with agenda := [.issueProgrammed 15] }
      s.link.mode ≠ .shutdown ∧ s.session? 15 = some x ∧ x.profile = some ⟨15, data⟩ ∧ x.phase = .allocating
      ∧ x.record.isSome = true ∧ s.agenda = [.issueProgrammed 15])
    ∧ (KeyArea.blank.wk = none ∧ keyed.wk.isSome = true ∧ ({ keyed with ak := none } : KeyArea).ak = none
      ∧ keyed.ak.isSome = true)
    ∧ (∀ state, state = ItemState.opened ∨ state = .keyed ∨ state = .checked →
      (deriver state).items.findIdx? (fun e => !(e.state == .wrapped || e.state == .loaded)) = some 0
      ∧ (deriver state).transportKind = some .a16 ∧ data.items[0]? = some ⟨.derived, .a32, 0x0102, 15⟩
      ∧ (deriver state).items[0]? = some ⟨state, some [1, 2, 3], none⟩)
    ∧ (deriver .wrapped).items.findIdx? (fun e => !(e.state == .wrapped || e.state == .loaded)) = none
    ∧ (∀ work, work = JobWork.derive [] .a16 .wk ∨ work = .derive [] .a32 .k1 ∨ work = .check ∨ work = .wrap [] [] →
      ∃ f, (deriving15 (deriver .opened) (flying work) root).engine.inFlight = some f ∧ f.mark = .none
        ∧ f.job.requester = 15 ∧ f.job.work = work ∧ f.key.length = 16)
    ∧ ∀ r, r = { root with state := .damaged } ∨ r = { root with mem := SlotMem.clean.upd .key (fun _ => doubleWrong) } →
      let s := deriving15 (deriver .opened) { calm.engine with
        waiting := calm.engine.waiting.put 15 (some ⟨15, .slot 31, .check⟩) } r
      s.agenda = [] ∧ s.takeUp? = none ∧ s.engine.granted? = some ⟨15, .slot 31, .check⟩ ∧ s.StatesSound
        ∧ (s.slot 31).state = r.state ∧ (s.slot 31).mem = r.mem := by
  refine ⟨⟨by decide, rfl, rfl, rfl, rfl, rfl⟩, by decide, ?_, by decide, ?_, ?_⟩
  · rintro state (rfl | rfl | rfl) <;> decide
  · rintro work (rfl | rfl | rfl | rfl) <;> exact ⟨_, rfl, rfl, rfl, rfl, rfl⟩
  · rintro r (rfl | rfl) <;>
      exact ⟨rfl, rfl, by decide +kernel, states_of (by decide +kernel), by decide, by decide⟩

/-! ## Witnesses: Journal -/

theorem witness_JournalRequests : calm.Takes
    ∧ (calm.journal.rebuilding = false ∧ calm.journal.flash = .idle ∧ calm.journal.nextSeq.mem = GroupMem.clean
      ∧ calm.journal.released.mem = GroupMem.clean)
    ∧ ((be 2 0).length = 2 ∧ number (be 2 0) 0 2 = 0 ∧ number (be 2 65535) 0 2 ≠ 0 ∧ (be 4 0 ++ be 1 255).length = 5
      ∧ (be 4 0).length = 4 ∧ number (be 4 0) 0 4 ≤ calm.journal.newest ∧ calm.journal.newest < number (be 4 1) 0 4)
    ∧ ({ calm.journal with rebuilding := true } : Journal).rebuilding = true :=
  ⟨takes_of rfl, by decide, by decide, rfl⟩

/-- A Journal with a FULL segment of one void place, not yet judged. -/
def unjudged : Journal := { calm.journal with segments := calm.journal.segments.put 5 ⟨openedHeader 1, [⟨List.replicate 80 0, false⟩], .full⟩ }

/-- A JRN.RELEASE that leaves released-through as it is judges no segment (R176, R177). -/
theorem test_release_repeated : (unjudged.release 0).eraseList = [] ∧ unjudged.judgeReclaim.eraseList = [5] := by
  decide +kernel

/-- The entries that append a record. -/
def appends : List QueueEntry := [.custody ⟨.authOpened, ⟨0, false⟩, 1, 99, []⟩,
  .issue ⟨15, 65535, 15, 7, 1, 1, 2, 3, [], ⟨0, false⟩⟩ none,
  .issue ⟨15, 65535, 15, 7, 1, 1, 2, 3, [], ⟨0, false⟩⟩ (some ⟨.spoiled, .line, ⟨0, false⟩, []⟩)]

theorem witness_FlashEnds :
    (∀ n, n = 0 ∨ n = 126 ∨ n = 127 → ∀ e ∈ appends,
      let s := journaled (opened n (.programming (.append 1 [])) [e])
      s.link.mode ≠ .shutdown ∧ s.journal.state ≠ .stopped ∧ s.link.restart ≠ .due
      ∧ s.journal.flash = .programming (.append 1 []) ∧ s.journal.head? = some e ∧ s.journal.active? = some 63
      ∧ s.journal.headFailed = false ∧ ((s.journal.segments.look 63).places.length + 1 < 128 ↔ n ≠ 127))
    ∧ (∀ e ∈ appends, ∀ x, e ≠ .settle x)
    ∧ (let j : Journal := { opened 0 (.programming (.append 1 [])) [] with segments := calm.journal.segments }
      j.active? = none ∧ j.nextErased? = some 0)
    ∧ (opened 128 (.erasing 63) []).flash = .erasing 63
    ∧ (({ opened 0 .idle [] with rebuilding := true } : Journal).rebuilding = true ∧ (opened 0 .idle []).heldRecords = []
      ∧ (opened 0 .idle []).flash = .idle) := by
  refine ⟨?_, by simp [appends], by decide +kernel, rfl, rfl, by decide +kernel, rfl⟩
  rintro n (rfl | rfl | rfl) e h <;> simp only [appends, List.mem_cons, List.not_mem_nil, or_false] at h <;>
    rcases h with rfl | rfl | rfl <;>
    exact ⟨by decide, by decide, by decide, rfl, rfl, by decide +kernel, rfl, by decide +kernel⟩

/-- A record that fails in STOPPED takes its place with the promise kept, so the warning is judged: JOURNAL-HIGH is
raised as the free count reaches the warning level (R170, R180). -/
theorem test_high_in_stopped :
    let j := opened 0 (.programming (.append 1 [])) (appends.take 1)
    let s := journaled { j with state := .stopped, warnLevel := j.free.toNat - 1 }
    (s.journal.head?.map fun e => s.appendEnd e 1 [] ⟨[], .fails (0x1A :: List.replicate 79 0), .ok, true⟩).any fun t =>
      !s.flagPending (.global .journalHigh) && t.flagPending (.global .journalHigh)
        && t.journal.programFailures == 0 && t.journal.head? == s.journal.head? := by
  decide +kernel

theorem witness_WaitersServed :
    ({ calm.journal with waiters := [0, 15] } : Journal).waiters = [0, 15]
    ∧ (let s := working (worker .allocating) root (.journalFault 15)
      s.link.mode ≠ .shutdown ∧ s.StatesSound ∧ s.agenda = [.journalFault 15] ∧ s.session? 15 = some (worker .allocating)
      ∧ (worker .allocating).phase = .allocating ∧ (worker .allocating).placeAccepted = false
      ∧ (worker .allocating).device = none) :=
  ⟨rfl, by decide, states_of (by decide +kernel), rfl, rfl, rfl, rfl, rfl⟩

/-- The Journal with this settlement at the head of its queue. -/
def settlingJournal (f : Flash) (e : SettlementEntry) : Journal := opened 1 f [.settle e]

/-- A start-up settlement for the record in place 0 of segment 63, being programmed while two ports wait for a place
behind an entry of their own and of nobody. -/
def startSettling : State := journaled { opened 1 settleProgram [.settle { settling none false with port := some 3 }] with
  startQueue := [.settle { settling none false with port := none }], waiters := [3, 4] }

/-- The end of a start-up settlement serves no waiter (R169). -/
theorem test_start_settlement : ((startSettling.partProgrammed ⟨1, 63, 0⟩ [] .ok).settlementOver
    (.settle { settling none false with port := none })).journal.waiters = [3, 4] := by decide +kernel

theorem witness_SettlementsProgrammed_start : startSettling.journal.flash = settleProgram ∧ startSettling.link.mode ≠ .shutdown
    ∧ startSettling.journal.head? = some (.settle ⟨some ⟨1, 63, 0⟩, none, (settling none false).content, false, none⟩) :=
  ⟨rfl, by decide, rfl⟩

theorem witness_SettlementsProgrammed :
    (∀ e, e = settling none false ∨ e = { settling none false with record := none } →
      let s := journaled (settlingJournal .idle e)
      s.journal.flash = .idle ∧ s.journal.rebuilding = false ∧ s.journal.state ≠ .stopped ∧ s.link.restart ≠ .due
      ∧ s.journal.head? = some (.settle e))
    ∧ (∀ e, e = settling none false ∨ e = settling (some 65535) false ∨ e = settling none true →
      let s : State := { seated .inSession (some { guest with phase := .settling }) with journal := settlingJournal settleProgram e }
      s.journal.flash = settleProgram ∧ s.journal.head? = some (.settle e) ∧ s.link.mode ≠ .shutdown ∧ s.Sound
      ∧ s.session? 15 = some { guest with phase := .settling })
    ∧ (guest.awaited = none ∧ (asked .wait .settling).awaited.isSome = true ∧ (asked .wait .settling).phase = .settling
      ∧ shut.link.mode = .shutdown)
    ∧ (let part : IssuePart := ⟨15, 65535, 15, 7, 1, 1, 2, 3, [], ⟨0, false⟩⟩
      let bound : Settlement := ⟨.spoiled, .line, ⟨0, false⟩, []⟩
      let j := opened 1 (.programming (.attached ⟨1, 63, 0⟩ (settlementBytes bound))) [.issue part (some bound)]
      j.flash = .programming (.attached ⟨1, 63, 0⟩ (settlementBytes bound)) ∧ j.head? = some (.issue part (some bound))) := by
  refine ⟨?_, ?_, by decide, rfl, rfl⟩
  · rintro e (rfl | rfl) <;> exact ⟨rfl, rfl, by decide, by decide, rfl⟩
  · rintro e (rfl | rfl | rfl) <;> exact ⟨rfl, rfl, by decide, sound_of (by decide +kernel), rfl⟩

end Sys2Proof.Tests
end

/-! PROOFS. What the end of a job leaves of the engine, and the two requests that hold and release it (chapter 3). -/

namespace Sys2Proof.Machine

/-! ## Jobs moved between waiting and kept (R52, R53) -/

/-- The engine `e'` is `e` but for the jobs that wait and the jobs that are kept. -/
def Engine.Requeued (e e' : Engine) : Prop := ∃ w k, e' = { e with waiting := w, kept := k }

theorem Engine.Requeued.refl (e : Engine) : e.Requeued e := ⟨_, _, rfl⟩

theorem Engine.Requeued.of_eq {e e' : Engine} (h : e' = e) : e.Requeued e' := h ▸ .refl e

theorem Engine.Requeued.trans {a b c : Engine} (h : a.Requeued b) (k : b.Requeued c) : a.Requeued c := by
  obtain ⟨_, _, rfl⟩ := h
  obtain ⟨_, _, rfl⟩ := k
  exact ⟨_, _, rfl⟩

theorem Engine.submit_requeued (e : Engine) (j : Job) : e.Requeued (e.submit j) := by
  unfold Engine.submit; split <;> exact ⟨_, _, rfl⟩

theorem Engine.promote_requeued (e : Engine) (r : Fin 17) : e.Requeued (e.promote r) := by
  unfold Engine.promote
  split
  · split <;> exact ⟨_, _, rfl⟩
  · exact .refl e

/-- An idle engine has no job in flight to mark. -/
theorem Engine.markIf_requeued {e : Engine} (h : e.inFlight = none) (m : JobMark) (which : Job → Bool) :
    e.Requeued (e.markIf m which) := by
  cases e; cases h; exact .refl _

theorem Engine.withdraw_requeued {e : Engine} (h : e.inFlight = none) (r : Fin 17) (which : Job → Bool) :
    e.Requeued (e.withdraw r which) := by
  refine Engine.Requeued.trans ?_ (Engine.promote_requeued _ r)
  refine Engine.Requeued.trans ⟨_, _, rfl⟩ (Engine.markIf_requeued ?_ _ _)
  exact h

/-- The job in flight has left the engine, and with DONE has been counted (R56, R58, R59). -/
theorem Engine.finish_requeued (e : Engine) (f : InFlight) :
    Engine.Requeued { e with
      inFlight := none
      completed := if f.mark = .none then saturate 0xFFFFFFFF (e.completed + 1) else e.completed } (e.finish f) :=
  Engine.promote_requeued _ _

/-! ## What never reaches the engine -/

section Untouched

variable (s : State)

@[simp] theorem State.answer_engine (st : Status) (r : List Byte) : (s.answer st r).engine = s.engine := by
  unfold State.answer
  split
  · rfl
  · split <;> rfl

@[simp] theorem State.refuse_engine (st : Status) : (s.refuse st).engine = s.engine := s.answer_engine st []

@[simp] theorem State.countCorrected_engine (n : Nat) : (s.countCorrected n).engine = s.engine := by
  unfold State.countCorrected; split <;> rfl

@[simp] theorem State.readSlotWords_engine (i : SlotNo) (gs : List SlotGroup) :
    (s.readSlotWords i gs).engine = s.engine := by
  unfold State.readSlotWords
  simp only
  split
  · simp
  · split
    · split <;> simp
    · simp

@[simp] theorem State.abandonSlot_engine (i : SlotNo) : (s.abandonSlot i).engine = s.engine := by
  unfold State.abandonSlot; simp only; split <;> simp

@[simp] theorem State.queueCustody_engine (t : CustodyType) (pair : Nat × Nat) (b : List Byte) :
    (s.queueCustody t pair b).engine = s.engine := rfl

@[simp] theorem State.assemblyOver_engine (i : SlotNo) (w : AssemblyEnd) : (s.assemblyOver i w).engine = s.engine := rfl

@[simp] theorem State.sendResult_engine (l : Line) (b : Byte) (w : Option PadReason) :
    (s.sendResult l b w).engine = s.engine := rfl

@[simp] theorem State.answerIntake_engine (w : PadReason) : (s.answerIntake w).engine = s.engine := by
  have answers (es : List IntakeEntry) (t : State) :
      (es.foldl (fun s e => s.sendResult e.line typeComponent (some w)) t).engine = t.engine := by
    induction es generalizing t with
    | nil => rfl
    | cons e es ih => exact ih _
  exact answers _ _

@[simp] theorem State.mismatch_engine (i : SlotNo) : (s.mismatch i).engine = s.engine := by
  unfold State.mismatch; split <;> rfl

@[simp] theorem State.verifyEnded_engine (o : JobOutcome) : (s.verifyEnded o).engine = s.engine := by
  unfold State.verifyEnded
  split
  · rfl
  · simp only
    split
    · simp
    · split
      · split <;> simp
      all_goals simp

@[simp] theorem State.sendAwaiting_engine (p : PortNo) (k : FrameType) (b : List Byte) :
    (s.sendAwaiting p k b).engine = s.engine := by
  unfold State.sendAwaiting; split <;> rfl

@[simp] theorem State.enterLoading_engine (p : PortNo) : (s.enterLoading p).engine = s.engine := by
  unfold State.enterLoading State.sendLoad
  split
  · rfl
  · split <;> simp

end Untouched

/-! ## What a delivered outcome does to the engine (R40, R41, R52, R53) -/

theorem State.failAssembly_requeued {s t : State} (e : t.engine = s.engine) (h : s.engine.inFlight = none)
    (w : AssemblyEnd) : s.engine.Requeued (t.failAssembly w).engine := by
  unfold State.failAssembly
  split
  · exact .of_eq e
  · simpa [e] using Engine.withdraw_requeued h custodyRequester custodyJob

theorem State.acceptPart_requeued (s : State) (a : Assembly) (e : IntakeEntry) (c : List Byte) :
    s.engine.Requeued (s.acceptPart a e c).engine := by
  unfold State.acceptPart
  simp only
  split
  · exact Engine.submit_requeued _ _
  · exact .refl _

theorem State.refusePart_requeued {s : State} (h : s.engine.inFlight = none) (a : Assembly) (e : IntakeEntry) :
    s.engine.Requeued (s.refusePart a e).engine := by
  unfold State.refusePart
  simp only
  split
  · exact State.failAssembly_requeued (by simp) h _
  · split
    · exact State.failAssembly_requeued (by simp) h _
    · exact .refl _

theorem State.componentChecked_requeued {s : State} (h : s.engine.inFlight = none) (c : List Byte) :
    s.engine.Requeued (s.componentChecked c).engine := by
  unfold State.componentChecked
  split
  · split
    · exact s.acceptPart_requeued _ _ c
    · exact State.refusePart_requeued h _ _
  · exact .refl _

theorem State.combinedChecked_requeued {s : State} (h : s.engine.inFlight = none) (c : List Byte) :
    s.engine.Requeued (s.combinedChecked c).engine := by
  unfold State.combinedChecked
  split
  · exact .refl _
  · split
    · exact State.failAssembly_requeued rfl h _
    · simp only
      split
      · exact .of_eq (by simp)
      · exact State.failAssembly_requeued (s.readSlotWords_engine _ _) h _
      · exact State.failAssembly_requeued (s.readSlotWords_engine _ _) h _

theorem State.goDeriving_requeued (s : State) (p : PortNo) : s.engine.Requeued (s.goDeriving p).engine := by
  unfold State.goDeriving
  split
  · exact .refl _
  · split
    · exact Engine.submit_requeued _ _
    · split
      · exact .refl _
      · exact .of_eq (s.enterLoading_engine p)

theorem State.sessionJobDone_requeued (s : State) (p : PortNo) (w : JobWork) (r : List Byte) :
    s.engine.Requeued (s.sessionJobDone p w r).engine := by
  unfold State.sessionJobDone
  split
  · exact .refl _
  · refine Engine.Requeued.trans (.of_eq ?_) (State.goDeriving_requeued _ p)
    cases w with
    | derive _ _ dest => simp only; split <;> rfl
    | check => rfl
    | wrap _ _ => rfl

/-- DONE to an idle engine: the requester's next job may be submitted and the jobs of a failed assembly withdrawn. -/
theorem State.deliver_done_requeued {s : State} (h : s.engine.inFlight = none) (j : Job) (r : List Byte) :
    s.engine.Requeued (s.deliver j (.done r)).engine := by
  unfold State.deliver
  split
  · exact .of_eq (s.verifyEnded_engine _)
  · split
    · exact .refl _
    · cases requesterPort? j.requester with
      | some p => exact s.sessionJobDone_requeued p j.work r
      | none =>
        unfold State.custodyJobDone
        simp only
        split
        · exact State.combinedChecked_requeued h r
        · exact State.componentChecked_requeued h r

theorem InFlight.outcome_marked {f : InFlight} (hm : f.mark ≠ .none) :
    f.outcome = .zeroized ∨ f.outcome = .discarded := by
  unfold InFlight.outcome
  cases k : f.mark with
  | none => exact absurd k hm
  | zeroized => exact .inl rfl
  | discarded => exact .inr rfl

/-- The outcome of a marked job reaches a SLOT.VERIFY alone (R58, R59). -/
theorem State.deliver_marked (s : State) {f : InFlight} (hm : f.mark ≠ .none) (hv : f.job.isVerify = false) :
    s.deliver f.job f.outcome = s := by
  unfold State.deliver
  simp only [hv, Bool.false_eq_true, if_false]
  split
  · rfl
  · rcases InFlight.outcome_marked hm with e | e <;> rw [e] <;> cases requesterPort? f.job.requester <;> rfl

theorem State.deliver_requeued {s : State} (h : s.engine.inFlight = none) (f : InFlight) :
    s.engine.Requeued (s.deliver f.job f.outcome).engine := by
  by_cases hm : f.mark = .none
  · simpa only [InFlight.outcome, hm] using State.deliver_done_requeued h f.job f.result
  · cases hv : f.job.isVerify with
    | false => exact .of_eq (by rw [s.deliver_marked hm hv])
    | true => exact .of_eq (by simp [State.deliver, hv])

/-! ## The end of a job (R56) -/

theorem State.endJob_inFlight {s : State} {f : InFlight} (h : s.engine.inFlight = some f) :
    s.endJob = (s.updEngine (·.finish f)).deliver f.job f.outcome := by
  simp only [State.endJob, h]

/-- After a job's end the engine is the one before it, idle and with the job counted if DONE, but for the jobs that
wait and are kept. -/
theorem State.endJob_requeued {s : State} {f : InFlight} (h : s.engine.inFlight = some f) :
    Engine.Requeued { s.engine with
      inFlight := none
      completed := if f.mark = .none then saturate 0xFFFFFFFF (s.engine.completed + 1) else s.engine.completed }
      s.endJob.engine := by
  have finished := s.engine.finish_requeued f
  have idle : (s.updEngine (·.finish f)).engine.inFlight = none := by
    obtain ⟨_, _, e⟩ := finished
    simp [e]
  rw [State.endJob_inFlight h]
  exact finished.trans (State.deliver_requeued idle f)

/-- Settles O41: the state at the end of the job, before the reactions to it. -/
theorem jobEnds : Obligations.JobEnds := by
  intro s f h
  obtain ⟨_, _, e⟩ := State.endJob_requeued h
  refine ⟨⟨s.endJob, rfl, ?_⟩, fun hm hv => ?_⟩
  · rw [e]
    exact ⟨rfl, rfl, rfl, rfl, rfl, rfl⟩
  · show Host.Outcome.next s.endJob.settle = _
    rw [State.endJob_inFlight h, State.deliver_marked _ hm hv]
    rfl

/-! ## ENG.HOLD and ENG.RESUME (R60) -/

/-- A hold cause changed between the taking of a request and its answer. -/
theorem State.taken_updEngine_answer (s : State) (f : Engine → Engine) (g v tag : Byte) (params : List Byte)
    (st : Status) (result : List Byte) : ((s.taken g v tag params).updEngine f).answer st result
      = State.replied (s.updEngine f) g v tag params st result :=
  (s.updEngine f).taken_answer g v tag params st result

/-- Settles O40: both requests pass the checks of the Link Controller and answer at once. -/
theorem engineHeldResumed : Obligations.EngineHeldResumed := by
  intro s tag h
  have owned (v : Byte) (owner : State → State) :
      s.request 5 v .bare false tag [0] owner = owner (s.taken 5 v tag [0]) :=
    h.request 5 v .bare false tag [0] owner rfl fun _ => rfl
  constructor
  · show Host.Outcome.next (s.request 5 1 .bare false tag [0] _) = _
    rw [owned, State.taken_updEngine_answer]
    rfl
  · show Host.Outcome.next (s.request 5 2 .bare false tag [0] _).settle = _
    rw [owned, State.taken_updEngine_answer]
    rfl

end Sys2Proof.Machine

/-! PROOFS. The requests that change the Profile Table and the Recognition Table, over sound memory (chapter 5). -/

namespace Sys2Proof.Machine

/-! ## Named things (R84, R93) -/

theorem below_val {n : Nat} (i : Fin n) : below n i.val = some i := by simp [below]

theorem State.withProfile_number (s : State) {params : List Byte} {n : Fin 16} (h : number params 0 1 = n.val)
    (k : Fin 16 → State → State) : s.withProfile params k = k n s := by
  simp only [State.withProfile, h, below_val]

theorem State.withEntry_number (s : State) {params : List Byte} {n : Fin 32} (h : number params 0 1 = n.val)
    (k : Fin 32 → State → State) : s.withEntry params k = k n s := by
  simp only [State.withEntry, h, below_val]

/-! ## A request taken changes the Link Controller alone -/

section Taken

variable (s : State) (g v tag : Byte) (params : List Byte)

@[simp] theorem State.taken_profile (n : Fin 16) : (s.taken g v tag params).profile n = s.profile n := rfl
@[simp] theorem State.taken_entry (n : Fin 32) : (s.taken g v tag params).entry n = s.entry n := rfl
@[simp] theorem State.taken_ordersNaming (n : Fin 16) :
    (s.taken g v tag params).ordersNaming n = s.ordersNaming n := rfl

end Taken

/-! ## How a request reaches its profile or entry (R188) -/

theorem State.Takes.profile_request {s : State} (h : s.Takes) {params : List Byte} {length : Nat} {n : Fin 16}
    (hl : params.length = length) (hn : number params 0 1 = n.val) (v tag : Byte) (k : Fin 16 → State → State) :
    s.request 6 v (.bytes length) false tag params (fun s => s.withProfile params k) = k n (s.taken 6 v tag params) := by
  rw [h.request 6 v (.bytes length) false tag params _ hl nofun, State.withProfile_number _ hn]

theorem State.Takes.entry_request {s : State} (h : s.Takes) {params : List Byte} {length : Nat} {n : Fin 32}
    (hl : params.length = length) (hn : number params 0 1 = n.val) (v tag : Byte) (k : Fin 32 → State → State) :
    s.request 7 v (.bytes length) false tag params (fun s => s.withEntry params k) = k n (s.taken 7 v tag params) := by
  rw [h.request 7 v (.bytes length) false tag params _ hl nofun, State.withEntry_number _ hn]

/-- The outcome of a command that ends with the reactions of `u`. -/
theorem settled_congr {u t : State} (h : u = t) : Host.Outcome.next (State.settle u)
    = (.next (State.settle t) : Host.Outcome State Fault Refusal) := by rw [h]

/-! ## The Journal's answer to a request of one record (R168) -/

theorem Journal.acceptable_custody_iff (s : State) (n : Nat) :
    s.journal.acceptable false (.custody n) = true ↔ s.RoomFor n := by
  simp only [Journal.acceptable, Journal.askerOk, Asker.places, Bool.false_or, Bool.and_eq_true, beq_iff_eq,
    decide_eq_true_eq, List.isEmpty_iff]
  exact ⟨fun ⟨⟨⟨w, f⟩, l⟩, c⟩ => ⟨w, of_decide_eq_true f, l, c⟩,
    fun ⟨w, f, l, c⟩ => ⟨⟨⟨w, decide_eq_true f⟩, l⟩, c⟩⟩

theorem State.noteRefusal_eq_placeRefused (s : State) : s.noteRefusal = s.placeRefused := by
  rw [State.noteRefusal, State.raiseWhen_flagged]
  by_cases h : s.journal.state = .fault <;>
    simp [h, State.placeRefused, State.flagged, State.raiseGlobal, State.raise, BitVec.or_assoc]

/-- Without room a request taken is refused JOURNAL-FULL, whatever it would have done. -/
theorem State.withPlace_no_room {s : State} (h : ¬ s.RoomFor 1) (g v tag : Byte) (params : List Byte)
    (k : State → State) :
    (s.taken g v tag params).withPlace k = s.placeRefused.replied g v tag params .journalFull [] := by
  have refused : ¬ (s.taken g v tag params).journal.acceptable false (.custody 1) = true :=
    fun a => h ((Journal.acceptable_custody_iff s 1).mp a)
  have asked : (s.taken g v tag params).askCustody 1 = (false, (s.taken g v tag params).placeRefused) := by
    rw [State.askCustody, if_neg refused, State.noteRefusal_eq_placeRefused]
  simp only [State.withPlace, asked]
  exact s.placeRefused.taken_refuse g v tag params .journalFull

/-- `F` neither reads nor changes the Link Controller and the Journal. -/
def Beside (F : State → State) : Prop :=
  ∀ (s : State) (l : LinkController) (j : Journal),
    F { s with link := l, journal := j } = { F s with link := l, journal := j }

theorem Beside.setProfile (n : Fin 16) (x : Profile) : Beside (·.setProfile n x) := fun _ _ _ => rfl

theorem Beside.setEntry (n : Fin 32) (x : Entry) : Beside (·.setEntry n x) := fun _ _ _ => rfl

/-- With room, a change beside the Link Controller and the Journal goes with its record. -/
theorem State.RoomFor.withPlace_recorded {s : State} (h : s.RoomFor 1) {F k : State → State} (hF : Beside F)
    {t : CustodyType} {pair : Nat × Nat} {fields result : List Byte}
    (hk : ∀ l j, k { s with link := l, journal := j }
      = ((F { s with link := l, journal := j }).queueCustody t pair fields).answer .ok result)
    (g v tag : Byte) (params : List Byte) :
    (s.taken g v tag params).withPlace k
      = ((F s).recorded 1 ⟨t, s.stamp, pair.1, pair.2, fields⟩ 0).replied g v tag params .ok result := by
  let u := ((s.taken g v tag params).flagged (s.journal.highFlag 1)).updJournal (·.accepted 1 [])
  have changed : F u = { F s with link := u.link, journal := u.journal } := hF s u.link u.journal
  have unlinked : { F s with link := s.link, journal := s.journal } = F s := (hF s s.link s.journal).symm
  have r := State.recorded_replied (s := s) (y := F u) (g := g) (v := v) (tag := tag) (params := params) 1 0
    (by rw [changed]; rfl) (by rw [changed]; rfl) t pair fields result
  rw [State.flagged_zero, changed] at r
  simp only [unlinked] at r
  rw [(h.taken g v tag params).withPlace, ← r, ← changed]
  exact hk _ _

end Sys2Proof.Machine

/-! PROOFS. PROF.DELETE, MATCH.WRITE, MATCH.ENABLE and MATCH.DISABLE (R87, R93, R94). -/

namespace Sys2Proof.Machine

/-! ## PROF.DELETE (R87) -/

section Delete

variable {s : State} {tag : Byte} {params : List Byte} {a b : Nat} {n : Fin 16}

theorem State.Takes.exec_profDelete (h : s.Takes) (hl : params.length = 1) (hn : number params 0 1 = n.val) :
    exec (.profDelete tag params) s = .next (State.settle (State.profDelete n (s.taken 6 2 tag params))) :=
  settled_congr (h.profile_request hl hn 2 tag _)

theorem State.profDelete_inUse (hs : s.Sound) (w : s.WindowOf a b)
    (used : 0 < (s.profile n).holders ∨ 0 < s.ordersNaming n) :
    State.profDelete n (s.taken 6 2 tag params) = s.replied 6 2 tag params .inUse [] := by
  rw [State.profDelete, (w.taken ..).under]
  simp [(hs.taken ..).readProfileState, used]

theorem State.profDelete_undefined (hs : s.Sound) (w : s.WindowOf a b) (holders : (s.profile n).holders = 0)
    (orders : s.ordersNaming n = 0) (undefined : (s.profile n).state = .undefined) :
    State.profDelete n (s.taken 6 2 tag params) = s.replied 6 2 tag params .wrongState [] := by
  rw [State.profDelete, (w.taken ..).under]
  simp [(hs.taken ..).readProfileState, holders, orders, undefined]

theorem State.profDelete_no_room (hs : s.Sound) (w : s.WindowOf a b) (holders : (s.profile n).holders = 0)
    (orders : s.ordersNaming n = 0) (defined : (s.profile n).state ≠ .undefined) (full : ¬ s.RoomFor 1) :
    State.profDelete n (s.taken 6 2 tag params) = s.placeRefused.replied 6 2 tag params .journalFull [] := by
  rw [State.profDelete, (w.taken ..).under]
  simp [(hs.taken ..).readProfileState, holders, orders, defined, State.withPlace_no_room full]

theorem State.profDelete_recorded (hs : s.Sound) (w : s.WindowOf a b) (holders : (s.profile n).holders = 0)
    (orders : s.ordersNaming n = 0) (defined : (s.profile n).state ≠ .undefined) (room : s.RoomFor 1) :
    State.profDelete n (s.taken 6 2 tag params) = State.replied
      ((s.setProfile n { s.profile n with state := .undefined, contents := none }).recorded 1
        ⟨.profileDeleted, s.stamp, a, b, be 1 n.val ++ be 1 (s.profile n).state.code
          ++ present 8 ((s.profile n).contents.map (·.label))⟩ 0) 6 2 tag params .ok [] := by
  have idle : ¬ (0 < (s.profile n).holders || 0 < s.ordersNaming n) = true := by simp [holders, orders]
  have readableLabel : (s.profile n).mem.heading.unreadable = false := by rw [hs.profiles n]; rfl
  rw [State.profDelete, (w.taken ..).under]
  simp only [(hs.taken ..).readProfileState, State.taken_profile, State.taken_ordersNaming, readableLabel, readable]
  rw [if_neg idle, if_neg defined, ← hs.profiles n]
  exact room.withPlace_recorded (.setProfile n _) (pair := (a, b)) (fun _ _ => rfl) ..

end Delete

/-- Settles O44: PROF.DELETE by the first check that fails, and its record. -/
theorem profileDeleted : Obligations.ProfileDeleted := by
  intro s tag params n a b takes sound window length number
  rw [takes.exec_profDelete length number]
  refine ⟨fun used => ?_, fun holders orders undefined => ?_, fun holders orders defined full => ?_,
    fun holders orders defined room => ?_⟩
  · rw [State.profDelete_inUse sound window used]
  · rw [State.profDelete_undefined sound window holders orders undefined]
  · rw [State.profDelete_no_room sound window holders orders defined full]
  · rw [State.profDelete_recorded sound window holders orders defined room]

section Match

variable {s : State} {tag : Byte} {params : List Byte} {a b : Nat} {n : Fin 32}

/-! ## MATCH.WRITE (R93) -/

theorem matchParamsOk_iff (params : List Byte) : matchParamsOk params = true ↔
    number params 9 1 ≤ 8 ∧ number params 18 1 ≤ 15
      ∧ ∀ c ∈ field params 10 (number params 9 1), 0x20 ≤ c.toNat ∧ c.toNat ≤ 0x7E := by
  simp only [matchParamsOk, printable, Bool.and_eq_true, decide_eq_true_eq, List.all_eq_true]
  exact ⟨fun ⟨⟨l, c⟩, t⟩ => ⟨l, t, c⟩, fun ⟨l, t, c⟩ => ⟨⟨l, c⟩, t⟩⟩

theorem State.Takes.exec_matchWrite (h : s.Takes) (hl : params.length = 19) (hn : number params 0 1 = n.val) :
    exec (.matchWrite tag params) s = .next (State.settle (State.matchWrite n params (s.taken 7 2 tag params))) :=
  settled_congr (h.entry_request hl hn 2 tag _)

theorem State.matchWrite_enabled (hs : s.Sound) (w : s.WindowOf a b) (enabled : (s.entry n).enabled = true) :
    State.matchWrite n params (s.taken 7 2 tag params) = s.replied 7 2 tag params .wrongState [] := by
  rw [State.matchWrite, (w.taken ..).under]
  simp [(hs.taken ..).readEntry, enabled]

theorem State.matchWrite_bad_value (hs : s.Sound) (w : s.WindowOf a b) (disabled : (s.entry n).enabled = false)
    (bad : matchParamsOk params = false) :
    State.matchWrite n params (s.taken 7 2 tag params) = s.replied 7 2 tag params .badValue [] := by
  rw [State.matchWrite, (w.taken ..).under]
  simp [(hs.taken ..).readEntry, disabled, bad]

theorem State.matchWrite_no_room (hs : s.Sound) (w : s.WindowOf a b) (disabled : (s.entry n).enabled = false)
    (good : matchParamsOk params = true) (full : ¬ s.RoomFor 1) :
    State.matchWrite n params (s.taken 7 2 tag params) = s.placeRefused.replied 7 2 tag params .journalFull [] := by
  rw [State.matchWrite, (w.taken ..).under]
  simp [(hs.taken ..).readEntry, disabled, good, State.withPlace_no_room full]

theorem State.matchWrite_recorded (hs : s.Sound) (w : s.WindowOf a b) (disabled : (s.entry n).enabled = false)
    (good : matchParamsOk params = true) (room : s.RoomFor 1) :
    State.matchWrite n params (s.taken 7 2 tag params) = State.replied
      ((s.setEntry n (Entry.ofRequest params)).recorded 1 ⟨.matchWritten, s.stamp, a, b,
        be 1 n.val ++ (Entry.ofRequest params).matchBytes ++ (Entry.ofRequest params).targetBytes⟩ 0)
      7 2 tag params .ok [boolByte (s.entry n).written, boolByte (s.entry n).damaged] := by
  rw [State.matchWrite, (w.taken ..).under]
  simp only [(hs.taken ..).readEntry, State.taken_entry, disabled, good, Bool.not_true, Bool.false_eq_true, if_false]
  exact room.withPlace_recorded (.setEntry n _) (pair := (a, b)) (fun _ _ => rfl) ..

/-! ## MATCH.ENABLE and MATCH.DISABLE (R94) -/

theorem State.Takes.exec_matchEnable (h : s.Takes) (hl : params.length = 1) (hn : number params 0 1 = n.val) :
    exec (.matchEnable tag params) s = .next (State.settle (State.matchEnable n (s.taken 7 3 tag params))) :=
  settled_congr (h.entry_request hl hn 3 tag _)

theorem State.Takes.exec_matchDisable (h : s.Takes) (hl : params.length = 1) (hn : number params 0 1 = n.val) :
    exec (.matchDisable tag params) s = .next (State.settle (State.matchDisable n (s.taken 7 4 tag params))) :=
  settled_congr (h.entry_request hl hn 4 tag _)

/-- A write of the enabled flag of a sound entry changes that flag alone. -/
theorem State.Sound.withEnabled (hs : s.Sound) (n : Fin 32) (e : Bool) :
    (s.entry n).withEnabled e = { s.entry n with enabled := e } := by
  have clean : { (s.entry n).control with singles := 0 } = (s.entry n).control := by rw [hs.control n]; rfl
  rw [Entry.withEnabled, clean]

/-- The groups of a sound entry in its records: the target alone can be lost, with a control group rewritten (R90). -/
theorem State.Sound.groupFields (hs : s.Sound) (n : Fin 32) : (s.entry n).groupFields n
    = be 1 n.val ++ present 17 (some (be 4 (s.entry n).matchValue.toNat ++ be 4 (s.entry n).mask.toNat
      ++ serialStartField (s.entry n).serialStart))
      ++ if (s.entry n).targetLost then [2, 0] else present 1 (some (be 1 (s.entry n).target)) := by
  have readableMatch : (s.entry n).contents.unreadable = false := by rw [hs.contents n]; rfl
  rw [Entry.groupFields, readableMatch]
  rfl

/-- What R94 asks of an entry to be enabled. -/
def Entry.Ready (e : Entry) : Prop := e.written = true ∧ e.enabled = false ∧ e.damaged = false

theorem Entry.not_ready_iff (e : Entry) : (!e.written || e.enabled || e.damaged) = true ↔ ¬ e.Ready := by
  unfold Entry.Ready
  cases e.written <;> cases e.enabled <;> cases e.damaged <;> decide

theorem State.matchEnable_wrong_state (hs : s.Sound) (w : s.WindowOf a b) (unready : ¬ (s.entry n).Ready) :
    State.matchEnable n (s.taken 7 3 tag params) = s.replied 7 3 tag params .wrongState [] := by
  rw [State.matchEnable, (w.taken ..).under]
  simp only [(hs.taken ..).readEntry, State.taken_entry, (Entry.not_ready_iff _).mpr unready, if_true,
    State.taken_refuse]

theorem State.matchEnable_no_room (hs : s.Sound) (w : s.WindowOf a b) (ready : (s.entry n).Ready)
    (full : ¬ s.RoomFor 1) :
    State.matchEnable n (s.taken 7 3 tag params) = s.placeRefused.replied 7 3 tag params .journalFull [] := by
  have refused := mt (Entry.not_ready_iff _).mp (not_not_intro ready)
  rw [State.matchEnable, (w.taken ..).under]
  simp only [(hs.taken ..).readEntry, State.taken_entry]
  rw [if_neg refused, State.withPlace_no_room full]

theorem State.matchEnable_recorded (hs : s.Sound) (w : s.WindowOf a b) (ready : (s.entry n).Ready)
    (room : s.RoomFor 1) :
    State.matchEnable n (s.taken 7 3 tag params) = State.replied
      ((s.setEntry n { s.entry n with enabled := true }).recorded 1
        ⟨.matchEnabled, s.stamp, a, b, (s.entry n).groupFields n⟩ 0) 7 3 tag params .ok [] := by
  have refused := mt (Entry.not_ready_iff _).mp (not_not_intro ready)
  rw [State.matchEnable, (w.taken ..).under]
  simp only [(hs.taken ..).readEntry, State.taken_entry]
  rw [if_neg refused, hs.withEnabled]
  exact room.withPlace_recorded (.setEntry n _) (pair := (a, b)) (fun _ _ => rfl) ..

theorem State.matchDisable_wrong_state (hs : s.Sound) (disabled : (s.entry n).enabled = false) :
    State.matchDisable n (s.taken 7 4 tag params) = s.replied 7 4 tag params .wrongState [] := by
  simp [State.matchDisable, (hs.taken ..).readEntry, disabled]

theorem State.matchDisable_no_room (hs : s.Sound) (enabled : (s.entry n).enabled = true) (full : ¬ s.RoomFor 1) :
    State.matchDisable n (s.taken 7 4 tag params) = s.placeRefused.replied 7 4 tag params .journalFull [] := by
  simp [State.matchDisable, (hs.taken ..).readEntry, enabled, State.withPlace_no_room full]

theorem State.matchDisable_recorded (hs : s.Sound) (enabled : (s.entry n).enabled = true) (room : s.RoomFor 1) :
    State.matchDisable n (s.taken 7 4 tag params) = State.replied
      ((s.setEntry n { s.entry n with enabled := false }).recorded 1
        ⟨.matchDisabled, s.stamp, 0, 0, (s.entry n).groupFields n⟩ 0) 7 4 tag params .ok [] := by
  simp only [State.matchDisable, (hs.taken ..).readEntry, State.taken_entry, enabled, Bool.not_true,
    Bool.false_eq_true, if_false, hs.withEnabled]
  exact room.withPlace_recorded (.setEntry n _) (pair := (0, 0)) (fun _ _ => rfl) ..

end Match

/-- Settles O45: each request by the first check that fails, and its record. -/
theorem entriesChanged : Obligations.EntriesChanged := by
  intro s tag params n takes sound number e groups
  have fields : e.groupFields n = groups := sound.groupFields n
  refine ⟨fun a b window length => ?_, fun length => ⟨fun a b window => ?_, ?_⟩⟩
  · intro answers taken
    have ok : matchParamsOk params = true ↔ taken := matchParamsOk_iff params
    simp only [answers, takes.exec_matchWrite length number]
    refine ⟨fun enabled => ?_, fun disabled bad => ?_, fun disabled good full => ?_, fun disabled good room => ?_⟩
    · rw [State.matchWrite_enabled sound window enabled]
    · rw [State.matchWrite_bad_value sound window disabled (Bool.eq_false_iff.mpr (mt ok.mp bad))]
    · rw [State.matchWrite_no_room sound window disabled (ok.mpr good) full]
    · rw [State.matchWrite_recorded sound window disabled (ok.mpr good) room, Entry.matchBytes, Entry.targetBytes]
      rfl
  · intro answers ready
    simp only [answers, takes.exec_matchEnable length number]
    refine ⟨fun unready => ?_, fun ready full => ?_, fun ready room => ?_⟩
    · rw [State.matchEnable_wrong_state sound window unready]
    · rw [State.matchEnable_no_room sound window ready full]
    · rw [State.matchEnable_recorded sound window ready room, ← fields]
  · intro answers
    simp only [answers, takes.exec_matchDisable length number]
    refine ⟨fun disabled => ?_, fun enabled full => ?_, fun enabled room => ?_⟩
    · rw [State.matchDisable_wrong_state sound disabled]
    · rw [State.matchDisable_no_room sound enabled full]
    · rw [State.matchDisable_recorded sound enabled room, ← fields]

end Sys2Proof.Machine

/-! PROOFS. PROF.WRITE and the validation of its contents, over sound memory (R84 to R86). -/

namespace Sys2Proof.Machine

section Validation

variable {s : State}

/-! ## A named slot judged (R85) -/

theorem Slot.judgedRole_sound {x : Slot} (h : x.mem = SlotMem.clean) (r : Role) :
    x.judgedRole = some r ↔ x.state ≠ .empty ∧ x.role = some r := by
  have readableIdentity : x.identityLost = false := by rw [Slot.identityLost, h]; rfl
  rw [Slot.judgedRole, readableIdentity]
  by_cases e : x.state = .empty <;> simp [e]

theorem State.Sound.slotFits_iff (hs : s.Sound) (i : SlotNo) (r : Role) (k : Option KeyKind) :
    s.SlotFits i.val r k ↔ (s.slot i).judgedRole = some r ∧ (k.isSome = true → (s.slot i).kind = k) := by
  rw [Slot.judgedRole_sound (hs.slots i)]
  constructor
  · rintro ⟨j, same, state, role, kind⟩
    cases Fin.ext same
    exact ⟨⟨state, role⟩, kind⟩
  · rintro ⟨⟨state, role⟩, kind⟩
    exact ⟨i, rfl, state, role, kind⟩

theorem State.SlotFits.lt {n : Nat} {r : Role} {k : Option KeyKind} (h : s.SlotFits n r k) : n < 32 := by
  obtain ⟨i, rfl, -⟩ := h
  exact i.isLt

theorem State.Sound.judgeSlot_eq (hs : s.Sound) (i : SlotNo) (r : Role) (k : Option KeyKind) :
    s.judgeSlot i.val r k = (if (s.slot i).judgedRole ≠ some r then some .role
      else if k.isSome && (s.slot i).kind ≠ k then some .kind else none, s) := by
  simp only [State.judgeSlot, below_val, hs.readSlot]

theorem State.Sound.judgeSlot_fits (hs : s.Sound) {n : Nat} {r : Role} {k : Option KeyKind} (h : s.SlotFits n r k) :
    s.judgeSlot n r k = (none, s) := by
  obtain ⟨role, kind⟩ := (hs.slotFits_iff ⟨n, h.lt⟩ r k).mp h
  rw [hs.judgeSlot_eq ⟨n, h.lt⟩, if_neg (not_not_intro role), if_neg (by simpa using kind)]

theorem State.Sound.judgeSlot_role (hs : s.Sound) {n : Nat} (hn : n < 32) {r : Role} (k : Option KeyKind)
    (h : ¬ s.SlotFits n r none) : s.judgeSlot n r k = (some .role, s) := by
  have role : (s.slot ⟨n, hn⟩).judgedRole ≠ some r := fun e => h ((hs.slotFits_iff ⟨n, hn⟩ r none).mpr ⟨e, nofun⟩)
  rw [hs.judgeSlot_eq ⟨n, hn⟩, if_pos role]

theorem State.Sound.judgeSlot_kind (hs : s.Sound) {n : Nat} {r : Role} {k : Option KeyKind}
    (fits : s.SlotFits n r none) (h : ¬ s.SlotFits n r k) : s.judgeSlot n r k = (some .kind, s) := by
  obtain ⟨role, -⟩ := (hs.slotFits_iff ⟨n, fits.lt⟩ r none).mp fits
  have kind : (k.isSome && (s.slot ⟨n, fits.lt⟩).kind ≠ k) = true := by
    simpa using mt (fun e => (hs.slotFits_iff ⟨n, fits.lt⟩ r k).mpr ⟨role, e⟩) h
  rw [hs.judgeSlot_eq ⟨n, fits.lt⟩, if_neg (not_not_intro role), if_pos kind]

/-! ## An item judged (R85) -/

theorem KeyKind.ofCode_isSome_iff (c : Nat) : (KeyKind.ofCode c).isSome = true ↔ c = 0x21 ∨ c = 0x41 ∨ c = 0x42 := by
  unfold KeyKind.ofCode
  by_cases d16 : c = 0x21 <;> by_cases a16 : c = 0x41 <;> by_cases a32 : c = 0x42 <;> simp [d16, a16, a32]

theorem ItemRequest.fieldOk_iff (i : ItemRequest) : i.fieldOk = true ↔
    (i.source = 1 ∨ i.source = 2 ∧ i.slot < 32) ∧ (i.kind = 0x21 ∨ i.kind = 0x41 ∨ i.kind = 0x42) ∧ i.index ≤ 15 := by
  simp [ItemRequest.fieldOk, KeyKind.ofCode_isSome_iff, and_assoc]

theorem ItemRequest.reserved_iff (i : ItemRequest) :
    (i.usage = wkUsage || i.usage = akUsage) = true ↔ i.usage = 0x7701 ∨ i.usage = 0x7702 := by
  rw [Bool.or_eq_true, decide_eq_true_iff, decide_eq_true_iff, wkUsage, akUsage]

/-- An item whose own fields are in range, not reserved and not repeated is judged by its slot. -/
theorem ItemRequest.judge_by_slot {i : ItemRequest} {earlier : List ItemRequest} (field : i.fieldOk = true)
    (reserved : ¬ (i.usage = 0x7701 ∨ i.usage = 0x7702))
    (repeated : ¬ ∃ e ∈ earlier, e.usage = i.usage ∨ e.index = i.index) (s : State) :
    i.judge earlier s = if i.source = 2 then s.judgeSlot i.slot .fixed (KeyKind.ofCode i.kind) else (none, s) := by
  have usage : earlier.any (fun e => e.usage == i.usage) = false := by
    rw [List.any_eq_false]
    exact fun e he same => repeated ⟨e, he, .inl (by simpa using same)⟩
  have index : earlier.any (fun e => e.index == i.index) = false := by
    rw [List.any_eq_false]
    exact fun e he same => repeated ⟨e, he, .inr (by simpa using same)⟩
  rw [ItemRequest.judge, if_neg (by simp [field]), if_neg (mt i.reserved_iff.mp reserved), if_neg (by simp [usage]),
    if_neg (by simp [index])]

theorem State.Sound.judge_fails (hs : s.Sound) {i : ItemRequest} {earlier : List ItemRequest} {c : ProfileCause}
    (h : s.ItemFails earlier i c) : i.judge earlier s = (some c, s) := by
  cases c with
  | field =>
    have field := mt i.fieldOk_iff.mp h
    rw [ItemRequest.judge, if_pos (by simpa using field)]
  | reserved =>
    obtain ⟨field, reserved⟩ := h
    rw [ItemRequest.judge, if_neg (by simp [i.fieldOk_iff.mpr field]), if_pos (i.reserved_iff.mpr reserved)]
  | repeated =>
    obtain ⟨field, reserved, e, he, same⟩ := h
    rw [ItemRequest.judge, if_neg (by simp [i.fieldOk_iff.mpr field]), if_neg (mt i.reserved_iff.mp reserved)]
    obtain usage | index := same
    · rw [if_pos (List.any_eq_true.mpr ⟨e, he, by simpa using usage⟩)]
    · rw [if_pos (c := earlier.any (fun e => e.index == i.index) = true)
        (List.any_eq_true.mpr ⟨e, he, by simpa using index⟩), ite_self]
  | role =>
    obtain ⟨field, reserved, repeated, source, role⟩ := h
    have slot : i.slot < 32 := by have := field.1; omega
    rw [ItemRequest.judge_by_slot (i.fieldOk_iff.mpr field) reserved repeated, if_pos source,
      hs.judgeSlot_role slot _ role]
  | kind =>
    obtain ⟨field, reserved, repeated, source, role, kind⟩ := h
    rw [ItemRequest.judge_by_slot (i.fieldOk_iff.mpr field) reserved repeated, if_pos source,
      hs.judgeSlot_kind role kind]
  | noDerived => exact h.elim

theorem State.Sound.judge_passes (hs : s.Sound) {i : ItemRequest} {earlier : List ItemRequest}
    (h : ∀ c, ¬ s.ItemFails earlier i c) : i.judge earlier s = (none, s) := by
  have field := Classical.not_not.mp (h .field)
  have reserved := fun r => h .reserved ⟨field, r⟩
  have repeated := fun r => h .repeated ⟨field, reserved, r⟩
  rw [ItemRequest.judge_by_slot (i.fieldOk_iff.mpr field) reserved repeated]
  by_cases source : i.source = 2
  · have role := Classical.not_not.mp fun r => h .role ⟨field, reserved, repeated, source, r⟩
    have kind := Classical.not_not.mp fun k => h .kind ⟨field, reserved, repeated, source, role, k⟩
    rw [if_pos source, hs.judgeSlot_fits kind]
  · rw [if_neg source]

/-! ## The items judged in order (R85) -/

/-- The first `k` of the items, after the items `earlier`, fail no check. -/
def State.ItemsPass (s : State) (earlier items : List ItemRequest) (k : Nat) : Prop :=
  ∀ m i c, m < k → items[m]? = some i → ¬ s.ItemFails (earlier ++ items.take m) i c

theorem State.ItemsPass.head {earlier rest : List ItemRequest} {i : ItemRequest} {k : Nat}
    (h : s.ItemsPass earlier (i :: rest) (k + 1)) (c : ProfileCause) : ¬ s.ItemFails earlier i c := by
  simpa using h 0 i c (Nat.succ_pos k) rfl

theorem State.ItemsPass.tail {earlier rest : List ItemRequest} {i : ItemRequest} {k : Nat}
    (h : s.ItemsPass earlier (i :: rest) (k + 1)) : s.ItemsPass (earlier ++ [i]) rest k := by
  intro m j c hm hj
  simpa using h (m + 1) j c (Nat.succ_lt_succ hm) hj

theorem State.Sound.judgeItems_pass (hs : s.Sound) (items : List ItemRequest) (n : Nat) (earlier : List ItemRequest)
    (h : s.ItemsPass earlier items items.length) : judgeItems n earlier items s = (none, s) := by
  induction items generalizing n earlier with
  | nil => rfl
  | cons i rest ih => simp only [judgeItems, hs.judge_passes h.head, ih (n + 1) _ h.tail]

/-- The first item that fails is named by its number, with the cause of the first check it fails. -/
theorem State.Sound.judgeItems_fail (hs : s.Sound) (items : List ItemRequest) (n : Nat) (earlier : List ItemRequest)
    {k : Nat} {i : ItemRequest} {c : ProfileCause} (pass : s.ItemsPass earlier items k) (hi : items[k]? = some i)
    (fails : s.ItemFails (earlier ++ items.take k) i c) : judgeItems n earlier items s = (some (k + n, c), s) := by
  induction items generalizing n earlier k with
  | nil => cases hi
  | cons j rest ih =>
    cases k with
    | zero =>
      cases hi
      simp only [judgeItems, hs.judge_fails (by simpa using fails), Nat.zero_add]
    | succ k =>
      simp only [judgeItems, hs.judge_passes pass.head, ih (n + 1) _ pass.tail hi (by simpa using fails)]
      rw [Nat.add_right_comm, Nat.add_assoc]

/-! ## The contents judged (R85) -/

/-- The heading's fields in range, as R85 has them. -/
theorem ProfileRequest.headingField_iff (r : ProfileRequest) : r.headingField = true ↔
    r.label.all printable = true ∧ 1 ≤ r.count ∧ r.count ≤ 4 ∧ r.freshOnly ≤ 1 ∧ r.transport < 32 ∧ r.root < 32 := by
  simp [ProfileRequest.headingField, and_assoc]

variable {r : ProfileRequest}

theorem ProfileRequest.judge_of_heading_fails {c : ProfileCause} (h : r.judgeHeading s = (some c, s)) :
    r.judge s = (some (0, c), s) := by
  simp only [ProfileRequest.judge, h]

theorem ProfileRequest.judge_field (s : State) (h : ¬ r.headingField = true) : r.judge s = (some (0, .field), s) := by
  apply ProfileRequest.judge_of_heading_fails
  rw [ProfileRequest.judgeHeading, if_pos (by simpa using h)]

theorem State.Sound.judge_role (hs : s.Sound) (field : r.headingField = true)
    (h : ¬ (s.SlotFits r.transport .transport none ∧ s.SlotFits r.root .root none)) :
    r.judge s = (some (0, .role), s) := by
  apply ProfileRequest.judge_of_heading_fails
  obtain ⟨-, -, -, -, transport, root⟩ := r.headingField_iff.mp field
  rw [ProfileRequest.judgeHeading, if_neg (by simp [field])]
  by_cases fits : s.SlotFits r.transport .transport none
  · simp only [hs.judgeSlot_fits fits, hs.judgeSlot_role root none fun e => h ⟨fits, e⟩]
  · simp only [hs.judgeSlot_role transport none fits]

/-- The heading passes: its fields are in range and the slots it names have their roles. -/
structure State.HeadingPasses (s : State) (r : ProfileRequest) : Prop where
  field : r.headingField = true
  transport : s.SlotFits r.transport .transport none
  root : s.SlotFits r.root .root none

theorem State.HeadingPasses.judgeHeading (h : s.HeadingPasses r) (hs : s.Sound) : r.judgeHeading s = (none, s) := by
  rw [ProfileRequest.judgeHeading, if_neg (by simp [h.field])]
  simp only [hs.judgeSlot_fits h.transport, hs.judgeSlot_fits h.root]

theorem State.HeadingPasses.judge_item (h : s.HeadingPasses r) (hs : s.Sound) {k : Nat} {i : ItemRequest}
    {c : ProfileCause} (pass : s.ItemsPass [] r.items k) (hi : r.items[k]? = some i)
    (fails : s.ItemFails (r.items.take k) i c) : r.judge s = (some (k + 1, c), s) := by
  simp only [ProfileRequest.judge, h.judgeHeading hs, hs.judgeItems_fail r.items 1 [] pass hi fails]

theorem State.HeadingPasses.judge_items (h : s.HeadingPasses r) (hs : s.Sound)
    (pass : s.ItemsPass [] r.items r.items.length) :
    r.judge s = (if r.items.any (fun i => i.source == 1) then none else some (0, .noDerived), s) := by
  simp only [ProfileRequest.judge, h.judgeHeading hs, hs.judgeItems_pass r.items 1 [] pass]

/-- Where the values of `f` differ throughout, an item repeats none of those before it. -/
theorem nodup_map_take_ne {α β : Type} {f : α → β} {l : List α} (h : (l.map f).Nodup) {m : Nat} {e i : α}
    (hi : l[m]? = some i) (he : e ∈ l.take m) : f e ≠ f i := by
  obtain ⟨k, hk, rfl⟩ := List.mem_take_iff_getElem.mp he
  obtain ⟨hm, rfl⟩ := List.getElem?_eq_some_iff.mp hi
  have differ : l.Pairwise (fun a b => f a ≠ f b) := List.pairwise_map.mp h
  exact List.pairwise_iff_getElem.mp differ k m (by omega) hm (by omega)

theorem State.ProfileValid.headingPasses (v : s.ProfileValid r) : s.HeadingPasses r where
  field := v.heading
  transport := let ⟨i, same, state, role⟩ := v.transport; ⟨i, same, state, role, nofun⟩
  root := let ⟨i, same, state, role⟩ := v.root; ⟨i, same, state, role, nofun⟩

theorem State.ProfileValid.itemsPass (v : s.ProfileValid r) : s.ItemsPass [] r.items r.items.length := by
  intro m i c _ hi fails
  obtain ⟨field, wk, ak, fixed⟩ := v.items i (List.mem_of_getElem? hi)
  have fits (k : Option KeyKind) (source : i.source = 2) (hk : k.isSome = true → k = KeyKind.ofCode i.kind) :
      s.SlotFits i.slot .fixed k := by
    obtain ⟨j, same, state, role, kind⟩ := fixed source
    exact ⟨j, same, state, role, fun e => kind.trans (hk e).symm⟩
  cases c with
  | field => exact fails (i.fieldOk_iff.mp field)
  | reserved => exact fails.2.elim wk ak
  | repeated =>
    obtain ⟨-, -, e, he, same⟩ := fails
    exact same.elim (nodup_map_take_ne v.usages hi he) (nodup_map_take_ne v.indexes hi he)
  | role =>
    obtain ⟨-, -, -, source, role⟩ := fails
    exact role (fits none source nofun)
  | kind =>
    obtain ⟨-, -, -, source, -, kind⟩ := fails
    exact kind (fits _ source fun _ => rfl)
  | noDerived => exact fails

theorem State.ProfileValid.taken (v : s.ProfileValid r) (g w tag : Byte) (params : List Byte) :
    (s.taken g w tag params).ProfileValid r :=
  ⟨v.heading, v.transport, v.root, v.items, v.usages, v.indexes, v.derived⟩

theorem State.ProfileValid.judge (v : s.ProfileValid r) (hs : s.Sound) : r.judge s = (none, s) := by
  obtain ⟨i, hi, source⟩ := v.derived
  have derived : r.items.any (fun i => i.source == 1) = true := List.any_eq_true.mpr ⟨i, hi, by simpa using source⟩
  rw [v.headingPasses.judge_items hs v.itemsPass, if_pos derived]

end Validation

/-! ## PROF.WRITE (R84, R86) -/

section Write

variable {s : State} {tag : Byte} {params : List Byte} {n : Fin 16} {a b : Nat} {r : ProfileRequest}

theorem State.Takes.exec_profWrite (h : s.Takes) (hl : params.length = 37) (hn : number params 0 1 = n.val) :
    exec (.profWrite tag params) s
      = .next (State.settle (State.profWrite n (ProfileRequest.read params) (s.taken 6 1 tag params))) :=
  settled_congr (h.profile_request hl hn 1 tag _)

theorem State.profWrite_inUse (hs : s.Sound) (w : s.WindowOf a b) (used : 0 < (s.profile n).holders) :
    State.profWrite n r (s.taken 6 1 tag params) = s.replied 6 1 tag params .inUse [] := by
  rw [State.profWrite, (w.taken ..).under]
  simp [(hs.taken ..).readProfileState, used]

theorem State.profWrite_invalid (hs : s.Sound) (w : s.WindowOf a b) (unused : (s.profile n).holders = 0) {part : Nat}
    {c : ProfileCause} (invalid : r.judge (s.taken 6 1 tag params) = (some (part, c), s.taken 6 1 tag params)) :
    State.profWrite n r (s.taken 6 1 tag params) = s.replied 6 1 tag params .badValue (be 1 part ++ be 1 c.code) := by
  rw [State.profWrite, (w.taken ..).under]
  simp only [(hs.taken ..).readProfileState, State.taken_profile, unused, Nat.lt_irrefl, if_false, invalid,
    State.taken_answer]

theorem State.profWrite_no_room (hs : s.Sound) (w : s.WindowOf a b) (unused : (s.profile n).holders = 0)
    (valid : s.ProfileValid r) (full : ¬ s.RoomFor 1) :
    State.profWrite n r (s.taken 6 1 tag params) = s.placeRefused.replied 6 1 tag params .journalFull [] := by
  rw [State.profWrite, (w.taken ..).under]
  simp only [(hs.taken ..).readProfileState, State.taken_profile, unused, Nat.lt_irrefl, if_false,
    (valid.taken ..).judge (hs.taken ..), State.withPlace_no_room full]

theorem State.profWrite_recorded (hs : s.Sound) (w : s.WindowOf a b) (unused : (s.profile n).holders = 0)
    (valid : s.ProfileValid r) (room : s.RoomFor 1) :
    State.profWrite n r (s.taken 6 1 tag params) = State.replied
      ((s.setProfile n { s.profile n with state := .defined, contents := some r.data }).recorded 1
        ⟨.profileWritten, s.stamp, a, b, profileFields s n r.data⟩ 0) 6 1 tag params .ok
      (be 1 (s.profile n).state.code) := by
  rw [State.profWrite, (w.taken ..).under]
  simp only [(hs.taken ..).readProfileState, State.taken_profile, (valid.taken ..).judge (hs.taken ..)]
  rw [if_neg (Nat.not_lt.mpr (Nat.le_of_eq unused)), ← hs.profiles n]
  exact room.withPlace_recorded (.setProfile n _) (pair := (a, b)) (fun _ _ => rfl) ..

end Write

/-- Settles O43: PROF.WRITE by the first check that fails, and its record. -/
theorem profileWritten : Obligations.ProfileWritten := by
  intro s tag params n a b takes sound window length number r refused invalid
  have answers {part : Nat} {c : ProfileCause} (unused : (s.profile n).holders = 0)
      (judged : r.judge (s.taken 6 1 tag params) = (some (part, c), s.taken 6 1 tag params)) : invalid part c := by
    simp only [invalid, refused, takes.exec_profWrite length number]
    rw [State.profWrite_invalid sound window unused judged]
  have judges : (s.taken 6 1 tag params).Sound := sound.taken ..
  refine ⟨fun used => ?_, fun unused => ?_⟩
  · simp only [refused, takes.exec_profWrite length number]
    rw [State.profWrite_inUse sound window used]
  intro heading slots pass
  have field : r.headingField = true ↔ heading := r.headingField_iff
  have passes (good : heading) (fit : slots) : (s.taken 6 1 tag params).HeadingPasses r :=
    ⟨field.mpr good, fit.1, fit.2⟩
  refine ⟨fun bad => ?_, fun good unfit => ?_, fun good fit => ⟨fun k i c before hi fails => ?_, fun all none => ?_⟩,
    fun valid => ⟨fun full => ?_, fun room => ?_⟩⟩
  · exact answers unused (ProfileRequest.judge_field _ (mt field.mp bad))
  · exact answers unused (judges.judge_role (field.mpr good) unfit)
  · exact answers unused ((passes good fit).judge_item judges before hi fails)
  · have underived : ¬ r.items.any (fun i => i.source == 1) = true := by simpa using none
    exact answers unused (((passes good fit).judge_items judges all).trans (by rw [if_neg underived]))
  · simp only [refused, takes.exec_profWrite length number]
    rw [State.profWrite_no_room sound window unused valid full]
  · rw [takes.exec_profWrite length number, State.profWrite_recorded sound window unused valid room]

end Sys2Proof.Machine

/-! PROOFS. A HELLO and the greeting of the session it starts, over sound tables (R92, R96, R129, R144). -/

namespace Sys2Proof.Machine

section Greeting

variable {s : State} {p : PortNo}

/-! ## Ports and sessions changed twice -/

theorem Bank.put_put {α : Type} {n : Nat} (v : Bank α n) (i : Fin n) (x y : α) : (v.put i x).put i y = v.put i y := by
  simp [Bank.put]

theorem State.updPort_updPort (s : State) (p : PortNo) (f g : Port → Port) :
    (s.updPort p f).updPort p g = s.updPort p (fun q => g (f q)) := by
  rw [State.updPort, State.port_updPort_self]
  simp only [State.updPort, State.setPort, Bank.put_put]

/-- A change of the session that the port has, as a change of the port. -/
theorem State.updSession_eq {x : Session} (hx : s.session? p = some x) (f : Session → Session) :
    s.updSession p f = s.updPort p (fun q => { q with session := some (f x) }) := by
  have session : (s.port p).session = some x := hx
  simp only [State.updSession, State.updPort, session, Option.map_some]

theorem State.updSession_updProfile (s : State) (p : PortNo) (n : Fin 16) (f : Session → Session)
    (g : Profile → Profile) : (s.updProfile n g).updSession p f = (s.updSession p f).updProfile n g := rfl

theorem State.sendAwaiting_eq_frameSent {x : Session} (hx : s.session? p = some x) (kind : FrameType)
    (payload : List Byte) : s.sendAwaiting p kind payload = s.frameSent p x kind payload := by
  have session : (s.transmit p ((s.port p).settings.frameChars (BitVec.ofNat 8 kind.code)
      (BitVec.ofNat 8 x.nextSeq) payload)).session? p = some x := by
    rw [State.session?, State.transmit, State.port_updPort_self]
    exact hx
  simp only [State.sendAwaiting, hx]
  rw [State.updSession_eq session, State.transmit, State.updPort_updPort, State.port_updPort_self]
  rfl

/-- A session without a device number that the greeting ends REFUSED. -/
theorem State.refused_over {x : Session} (hs : s.StatesSound) (hx : s.session? p = some x)
    (state : (s.port p).state = .inSession) (r : Reason) :
    SessionOver s (s.endUnnumbered p .refused r none) p x (x.endOf .refused r none .cooldown) := by
  have ended := State.endSession_over hs hx .refused r none false false .natural
  rw [state] at ended
  exact ended

/-! ## A good frame (R123) -/

theorem State.Receives.received {chars : List Byte} {j : Judged} (h : s.Receives p chars j)
    (k : Judged → State → State) : s.received p chars k = k j s := by
  have running : s.isShutdown = false := by simpa [State.isShutdown] using h.running
  simp [State.received, State.onLine, running, h.decodes, h.inStep, h.judged]

/-- `s` with the session that a HELLO of the terminal `t` starts on port `p` (R129, R142). -/
def State.helloTaken (s : State) (p : PortNo) (t : Terminal) : State :=
  s.updPort p (fun q => { q with
    score := q.score - 1, state := .inSession, session := some (Session.created t), keyArea := KeyArea.blank })

theorem State.helloTaken_session (s : State) (p : PortNo) (t : Terminal) :
    (s.helloTaken p t).session? p = some (Session.created t) := by
  rw [State.session?, State.helloTaken, State.port_updPort_self]

theorem State.helloTaken_state (s : State) (p : PortNo) (t : Terminal) :
    ((s.helloTaken p t).port p).state = .inSession := by
  rw [State.helloTaken, State.port_updPort_self]

theorem State.Sound.helloTaken (h : s.Sound) (p : PortNo) (t : Terminal) : (s.helloTaken p t).Sound :=
  ⟨h.slots, h.profiles, h.control, h.contents⟩

theorem State.Receives.hello_listening {chars : List Byte} {f : BenchFrame} (h : s.Receives p chars (.good f))
    (hello : f.type = 0x21) (listening : (s.port p).state = .listening) : exec (.hello p chars) s
      = .next (State.settle ((s.helloTaken p (helloTerminal f.payload)).greet p (helloTerminal f.payload))) := by
  show Host.Outcome.next (State.settle (s.received p chars _)) = _
  rw [h.received]
  simp only [hello, listening]
  rfl

theorem State.Receives.hello_discarded {chars : List Byte} {f : BenchFrame} (h : s.Receives p chars (.good f))
    (elsewhere : (s.port p).state ≠ .listening) : exec (.hello p chars) s = .next s.settle := by
  show Host.Outcome.next (State.settle (s.received p chars _)) = _
  rw [h.received]
  simp [elsewhere]

/-! ## The recognition scan (R92) -/

/-- Entry `i` is enabled and takes the terminal `t` (R91, R92). -/
def State.recognises (s : State) (t : Terminal) (i : Fin 32) : Bool := (s.entry i).enabled && (s.entry i).accepts t

theorem State.recognises_iff (s : State) (t : Terminal) (i : Fin 32) : s.recognises t i = true ↔
    (s.entry i).enabled = true ∧ t.identity &&& (s.entry i).mask = (s.entry i).matchValue &&& (s.entry i).mask
      ∧ (s.entry i).serialStart = t.serial.take (s.entry i).serialStart.length := by
  simp [State.recognises, Entry.accepts]

/-- Over sound entries the scan changes nothing and finds the first that takes the terminal. -/
theorem State.Sound.scan_eq (hs : s.Sound) (t : Terminal) (is : List (Fin 32)) :
    State.scan t is s = (is.find? (s.recognises t), s) := by
  induction is with
  | nil => rfl
  | cons i rest ih =>
    simp only [State.scan, hs.readEntry, ite_self, ih, List.find?_cons]
    cases recognised : s.recognises t i <;> simp only [State.recognises] at recognised <;> simp [recognised]

theorem State.Sound.scan_none (hs : s.Sound) {t : Terminal} (h : ∀ i, ¬ s.recognises t i = true) :
    State.scan t (List.finRange 32) s = (none, s) := by
  rw [hs.scan_eq, List.find?_eq_none.mpr fun i _ => h i]

theorem State.Sound.scan_first (hs : s.Sound) {t : Terminal} {i : Fin 32} (takes : s.recognises t i = true)
    (first : ∀ k, k < i → ¬ s.recognises t k = true) : State.scan t (List.finRange 32) s = (some i, s) := by
  have found : (List.finRange 32).find? (s.recognises t) = some i :=
    List.find?_eq_some_iff_getElem.mpr ⟨takes, i.val, by simp, by simp, fun j hj => by
      simpa using first ⟨j, Nat.lt_trans hj i.isLt⟩ hj⟩
  rw [hs.scan_eq, found]

/-! ## The greeting (R96, R144) -/

variable {t : Terminal}

theorem State.greet_no_serial (s : State) (p : PortNo) (h : t.serial = []) :
    s.greet p t = s.endUnnumbered p .refused .identity none := by
  rw [State.greet, if_pos h]

theorem State.Sound.greet_unknown (hs : s.Sound) (p : PortNo) (serial : t.serial ≠ [])
    (h : ∀ i, ¬ s.recognises t i = true) : s.greet p t = s.endUnnumbered p .refused .unknown none := by
  rw [State.greet, if_neg serial, hs.scan_none h]

/-- The scan of a terminal with a serial has found entry `i`, whose target is profile `n`. -/
structure State.Recognised (s : State) (t : Terminal) (i : Fin 32) (n : Fin 16) : Prop where
  serial : t.serial ≠ []
  takes : s.recognises t i = true
  first : ∀ k, k < i → ¬ s.recognises t k = true
  target : (s.entry i).target = n.val

variable {i : Fin 32} {n : Fin 16}

theorem State.Recognised.greet_no_profile (h : s.Recognised t i n) (hs : s.Sound) (p : PortNo)
    (undefined : (s.profile n).state ≠ .defined) : s.greet p t = s.endUnnumbered p .refused .noProfile none := by
  rw [State.greet, if_neg h.serial, hs.scan_first h.takes h.first]
  simp only [h.target, below_val, hs.readProfile]
  cases state : (s.profile n).state with
  | defined => exact absurd state undefined
  | undefined => rfl
  | damaged => rfl

/-- The session `x` greeted by entry `i` for profile `n` with the contents `d` (R96). -/
def Session.greeted (x : Session) (i : Fin 32) (n : Fin 16) (d : ProfileData) : Session :=
  { x with entry := some i, profile := some ⟨n, d⟩, profileHeld := true, items := d.items.map (fun _ => ItemEntry.opened) }

/-- `s` with profile `n` held for the session of port `p`, which is then `y` (R96). -/
def State.profileTaken (s : State) (p : PortNo) (n : Fin 16) (y : Session) : State :=
  State.updProfile (s.updPort p (fun q => { q with session := some y })) n (fun g => { g with holders := g.holders + 1 })

theorem State.profileTaken_port (s : State) (p : PortNo) (n : Fin 16) (y : Session) :
    (s.profileTaken p n y).port p = { s.port p with session := some y } :=
  s.port_updPort_self p (fun q => { q with session := some y })

/-- The greeting with the profile held: refused for an item or for one not fresh, else welcomed. -/
theorem State.Recognised.greet_defined (h : s.Recognised t i n) (hs : s.Sound) {x : Session}
    (hx : s.session? p = some x) {d : ProfileData} (defined : (s.profile n).state = .defined)
    (contents : (s.profile n).contents = some d) :
    let met := s.profileTaken p n (x.greeted i n d)
    s.greet p t = if !d.fits t then met.endUnnumbered p .refused .capability none
      else if d.freshOnly && !t.fresh then met.endUnnumbered p .refused .notFresh none
      else met.sendAwaiting p .welcome (be 1 n.val ++ be 1 d.items.length) := by
  have met : State.updSession (s.updProfile n (fun f => { f with holders := f.holders + 1 })) p
      (fun x => x.greeted i n d) = s.profileTaken p n (x.greeted i n d) := by
    rw [State.updSession_updProfile, State.updSession_eq hx]
    rfl
  rw [State.greet, if_neg h.serial, hs.scan_first h.takes h.first]
  simp only [h.target, below_val, hs.readProfile, defined, contents]
  simp only [← met]
  rfl

theorem ProfileData.not_fits_iff (d : ProfileData) (t : Terminal) :
    (!d.fits t) = true ↔ ∃ j ∈ d.items, t.can j.kind = false ∨ t.highestIndex < j.index := by
  simp only [ProfileData.fits, Bool.not_eq_true', List.all_eq_false, Bool.and_eq_true, decide_eq_true_eq, Classical.not_and_iff_not_or_not,
    Bool.not_eq_true, Nat.not_le]

end Greeting

/-- Settles O56: the greeting by the first step of R96 that refuses, or WELCOME. -/
theorem sessionGreeted : Obligations.SessionGreeted := by
  intro s p chars f frame hello
  refine ⟨frame.hello_discarded, fun listening sound => ?_⟩
  intro t x begun refused takes
  have greeted : exec (.hello p chars) s = .next (begun.greet p t).settle := frame.hello_listening hello listening
  have started : begun.session? p = some x := s.helloTaken_session p t
  have state : (begun.port p).state = .inSession := s.helloTaken_state p t
  have tables : begun.Sound := sound.helloTaken p t
  have recognises (i : Fin 32) : begun.recognises t i = true ↔ takes i := begun.recognises_iff t i
  have ends {b : State} {y : Session} {r : Reason} (greet : begun.greet p t = b.endUnnumbered p .refused r none)
      (slots : b.StatesSound) (session : b.session? p = some y) (inSession : (b.port p).state = .inSession) :
      refused b y r := ⟨_, State.refused_over slots session inSession r, by rw [greeted, greet]⟩
  refine ⟨fun serial => ?_, fun serial none => ?_, fun i n serial taken first target => ?_⟩
  · exact ends (begun.greet_no_serial p serial) tables.states started state
  · exact ends (tables.greet_unknown p serial fun i => mt (recognises i).mp (none i)) tables.states started state
  have known : begun.Recognised t i n :=
    ⟨serial, (recognises i).mpr taken, fun k hk => mt (recognises k).mp (first k hk), target⟩
  refine ⟨fun undefined => ends (known.greet_no_profile tables p undefined) tables.states started state, ?_⟩
  intro d defined contents y met
  have greet := known.greet_defined tables started defined contents
  have slots : met.StatesSound := tables.states
  have port : met.port p = { begun.port p with session := some y } := begun.profileTaken_port p n y
  have session : met.session? p = some y := congrArg Port.session port
  have inSession : (met.port p).state = .inSession := (congrArg Port.state port).trans state
  have unfit_iff := d.not_fits_iff t
  split
  next unfit => exact ends (greet.trans (if_pos (unfit_iff.mpr unfit))) slots session inSession
  next fit =>
    have fits := mt unfit_iff.mp fit
    split
    next stale => exact ends (greet.trans ((if_neg fits).trans (if_pos (by simpa using stale)))) slots session inSession
    next fresh =>
      rw [greeted, greet.trans ((if_neg fits).trans (if_neg (by simpa using fresh)))]
      exact settled_congr (State.sendAwaiting_eq_frameSent session _ _)

end Sys2Proof.Machine

/-! PROOFS. How a cause from outside ends a session, by how far it has come (R126, R134, R137, R156, R158). -/

namespace Sys2Proof.Machine

section Interrupted

variable {s : State} {p : PortNo} {x : Session}

theorem Journal.settleBegun_iff (j : Journal) (p : PortNo) : j.settleBegun p = true ↔ j.Settles p := by
  constructor
  · intro h
    unfold Journal.settleBegun at h
    split at h
    · rename_i bytes e flash head
      exact ⟨bytes, e, flash, head, by simpa using h⟩
    · cases h
  · rintro ⟨bytes, e, flash, head, port⟩
    simp [Journal.settleBegun, flash, head, port]

/-- In CLOSING it ends COMPLETE (log entry 15). -/
theorem State.interrupt_closing (hs : s.StatesSound) (hx : s.session? p = some x) (closing : x.phase = .closing)
    (r : Reason) (cause : EndCause) : SessionOver s (s.interrupt p r cause) p x
      (x.endOf .complete .none none ((s.port p).state.afterSession cause)) := by
  have ended := State.endSession_over hs hx .complete .none none true false cause
  simpa [State.interrupt, hx, closing, State.endComplete, Session.endOf] using ended

/-- Before SETTLING it ends SPOILED with a device number and WITHDRAWN without. -/
theorem State.interrupt_running (hs : s.StatesSound) (hx : s.session? p = some x) (unsettled : x.phase ≠ .settling)
    (unclosed : x.phase ≠ .closing) (r : Reason) (cause : EndCause) : SessionOver s (s.interrupt p r cause) p x
      (x.endOf x.cutOff r none ((s.port p).state.afterSession cause)) := by
  have cut : s.interrupt p r cause = s.endSession p x.cutOff r none false false cause := by
    cases phase : x.phase with
    | settling => exact absurd phase unsettled
    | closing => exact absurd phase unclosed
    | _ =>
      simp only [State.interrupt, hx, phase, Session.cutOff]
      split <;> rfl
  have settles : (x.device.isSome && x.cutOff != .complete) = (x.device.isSome && !false) := by
    cases device : x.device <;> simp [Session.cutOff, device]
  rw [cut, Session.endOf, settles]
  exact State.endSession_over hs hx x.cutOff r none false false cause

/-- In SETTLING the program of its settlement decides. -/
theorem State.interrupt_settling (hs : s.StatesSound) (hx : s.session? p = some x) (settling : x.phase = .settling)
    (r : Reason) (cause : EndCause) :
    s.CutInSettling (s.interrupt p r cause) p x r ((s.port p).state.afterSession cause) := by
  have cut : s.interrupt p r cause = s.interruptSettling p r cause := by simp only [State.interrupt, hx, settling]
  have ends (f : SettlementEntry → SettlementEntry) (o : Ending) (why : Reason) (later : Bool) :
      SessionOver (s.withSettle p f) ((s.withSettle p f).endSession p o why none true later cause) p x
        ⟨o, why, none, false, later, (s.port p).state.afterSession cause⟩ := by
    have unsettled : (x.device.isSome && !true) = false := Bool.and_false _
    rw [← unsettled]
    exact State.endSession_over (s := s.withSettle p f) hs hx o why none true later cause
  rw [cut]
  refine ⟨fun begun => ?_, fun waits => ?_⟩
  · rw [State.interruptSettling, if_pos ((Journal.settleBegun_iff ..).mpr begun), hx]
    exact ends ..
  · rw [State.interruptSettling, if_neg (mt (Journal.settleBegun_iff ..).mp waits)]
    exact ends ..

end Interrupted

end Sys2Proof.Machine

/-! PROOFS. Line errors: the score, the failed wait and the retirement of a port (R123, R125 to R128, R134). -/

namespace Sys2Proof.Machine

section LineError

variable {s : State} {p : PortNo} {k : LineError}

/-! ## A port scored (R127, R128) -/

theorem State.setPort_port (s : State) (p : PortNo) : s.setPort p (s.port p) = s := by
  rw [State.setPort, State.port, Bank.put_look]

theorem Port.scoreError_eq_afterError (q : Port) (h : k ≠ .length) : q.scoreError k = q.afterError k := by
  cases k with
  | length => exact absurd rfl h
  | _ => rfl

theorem State.raisePort_flagged (s : State) (f : PortFlag) (p : PortNo) :
    s.raisePort f p = s.flagged (EventFlag.port f p).single := rfl

@[simp] theorem State.flagged_port (s : State) (v : BitVec 88) (q : PortNo) : (s.flagged v).port q = s.port q := rfl

@[simp] theorem State.afterError_port (s : State) (p : PortNo) (k : LineError) :
    (s.afterError p k).port p = (s.port p).afterError k := s.port_setPort_self p _

theorem State.afterError_session (s : State) (p : PortNo) (k : LineError) :
    (s.afterError p k).session? p = s.session? p := by
  rw [State.session?, State.afterError_port]
  rfl

/-- An error scored on a port that `f` has changed beforehand, as a LENGTH error puts it out of step. -/
theorem State.lineError_eq (s : State) (p : PortNo) (k : LineError) (f : Port → Port)
    (score : (f (s.port p)).score = (s.port p).score)
    (scored : (f (s.port p)).scoreError k = (s.port p).afterError k) :
    (s.updPort p f).lineError p k = if 256 ≤ (s.port p).score + 8 then (s.afterError p k).retire p
      else (s.afterError p k).failWait p := by
  have counted : (s.updPort p f).updPort p (·.scoreError k) = s.setPort p ((s.port p).afterError k) := by
    rw [State.updPort_updPort, State.updPort, scored]
  have risen : ((s.port p).afterError k).score = min 256 ((s.port p).score + 8) := rfl
  have warned : (if (decide ((s.port p).score < 96) && decide (96 ≤ min 256 ((s.port p).score + 8))) = true
        then State.raisePort (s.setPort p ((s.port p).afterError k)) .warning p
        else s.setPort p ((s.port p).afterError k)) = s.afterError p k := by
    have rises : (decide ((s.port p).score < 96) && decide (96 ≤ min 256 ((s.port p).score + 8))) = true
        ↔ (s.port p).score < 96 ∧ 96 ≤ (s.port p).score + 8 := by
      simp only [Bool.and_eq_true, decide_eq_true_eq]
      omega
    simp only [rises, State.afterError, State.raisePort_flagged]
    split
    · rfl
    · exact (State.flagged_zero _).symm
  have full : 256 ≤ min 256 ((s.port p).score + 8) ↔ 256 ≤ (s.port p).score + 8 := by omega
  simp only [State.lineError, counted, State.port_setPort_self, State.port_updPort_self, score, risen, warned, full]

theorem State.lineError_in_step (s : State) (p : PortNo) (h : k ≠ .length) :
    s.lineError p k = if 256 ≤ (s.port p).score + 8 then (s.afterError p k).retire p
      else (s.afterError p k).failWait p := by
  have unchanged : s.updPort p id = s := s.setPort_port p
  have scored := s.lineError_eq p k id rfl ((s.port p).scoreError_eq_afterError h)
  rwa [unchanged] at scored

/-! ## The commands that are line errors (R123, R125) -/

/-- Characters taken as the error they are judged to be. -/
theorem State.receives_of {chars : List Byte} {j : Judged} (running : s.link.mode ≠ .shutdown)
    (h : ((s.port p).decodes && (s.port p).inStep && decide ((s.port p).settings.judge chars = j)) = true) :
    s.Receives p chars j := by
  simp only [Bool.and_eq_true, decide_eq_true_eq] at h
  obtain ⟨⟨decodes, inStep⟩, judged⟩ := h
  exact ⟨running, decodes, inStep, judged⟩

theorem State.exec_lineError {c : Instr} (running : s.link.mode ≠ .shutdown) (h : s.lineErrorOf c = some (p, k)) :
    exec c s = .next (State.settle (if 256 ≤ (s.port p).score + 8 then (s.afterError p k).retire p
      else (s.afterError p k).failWait p)) := by
  unfold State.lineErrorOf at h
  split at h
  · obtain ⟨judged, ⟨⟩⟩ := Option.ite_none_right_eq_some.mp h
    refine settled_congr (((State.receives_of running judged).received _).trans ?_)
    exact s.lineError_in_step _ nofun
  · obtain ⟨judged, ⟨⟩⟩ := Option.ite_none_right_eq_some.mp h
    refine settled_congr (((State.receives_of running judged).received _).trans ?_)
    exact s.lineError_eq _ .length (fun q => { q with inStep := false }) rfl rfl
  · obtain ⟨judged, ⟨⟩⟩ := Option.ite_none_right_eq_some.mp h
    refine settled_congr (((State.receives_of running judged).received _).trans ?_)
    exact s.lineError_in_step _ nofun
  · obtain ⟨awaits, ⟨⟩⟩ := Option.ite_none_right_eq_some.mp h
    have on : s.isShutdown = false := by simpa [State.isShutdown] using running
    refine settled_congr ?_
    simp only [State.onLine, on, awaits, Bool.false_eq_true, if_false, if_true]
    exact s.lineError_in_step _ nofun
  · cases h

/-! ## Retirement, and the wait that has failed (R126, R134) -/

theorem State.retire_vacant (h : s.session? p = none) : s.retire p
    = State.updPort (s.flagged (EventFlag.port .retired p).single) p (fun q => { q with state := .retired }) := by
  have vacant : (s.raisePort .retired p).session? p = none := h
  simp only [State.retire, vacant]
  rfl

theorem State.retire_session {x : Session} (h : s.session? p = some x) :
    s.retire p = State.interrupt (s.flagged (EventFlag.port .retired p).single) p .line .retired := by
  have session : (s.raisePort .retired p).session? p = some x := h
  simp only [State.retire, session]
  rfl

theorem State.failWait_idle (h : ∀ x, s.session? p = some x → x.awaited = none) : s.failWait p = s := by
  unfold State.failWait
  split
  · rfl
  · rename_i x session
    simp only [h x session]

variable {x : Session} {a : Awaited}

theorem State.failWait_resend (session : s.session? p = some x) (awaited : x.awaited = some a)
    (again : x.retry < (s.port p).settings.retryLimit) : s.failWait p = s.updPort p (fun q => { q with
      sent := q.sent ++ [a.bytes]
      session := some { x with
        retry := x.retry + 1, awaited := some { a with waitMs := (s.port p).timeoutInForce } } }) := by
  have transmitted : (s.transmit p a.bytes).session? p = some x := by
    rw [State.session?, State.transmit, State.port_updPort_self]
    exact session
  simp only [State.failWait, session, awaited, if_neg (Nat.not_le.mpr again), State.resend]
  rw [State.updSession_eq transmitted, State.transmit, State.updPort_updPort]

theorem State.failWait_limit (session : s.session? p = some x) (awaited : x.awaited = some a)
    (limit : (s.port p).settings.retryLimit ≤ x.retry) : s.failWait p = s.interrupt p .line .natural := by
  simp only [State.failWait, session, awaited, if_pos limit]

end LineError

/-- Settles O55: the error is scored; then the port is retired, or a wait for an answer has failed. -/
theorem lineErrors : Obligations.LineErrors := by
  intro c s p k running error after Ends
  have exec_eq := State.exec_lineError running error
  have sessionAfter : after.session? p = s.session? p := s.afterError_session p k
  have portAfter : after.port p = (s.port p).afterError k := s.afterError_port p k
  have ends {b : State} {x : Session} (slots : b.StatesSound) (session : b.session? p = some x) (cause : EndCause) :
      Ends b (b.interrupt p .line cause) x ((b.port p).state.afterSession cause) :=
    ⟨fun closing => State.interrupt_closing slots session closing .line cause,
      fun settling => State.interrupt_settling slots session settling .line cause,
      fun unsettled unclosed => State.interrupt_running slots session unsettled unclosed .line cause⟩
  refine ⟨fun full => ?_, fun below => ?_⟩
  · rw [exec_eq, if_pos full]
    intro retired
    refine ⟨fun vacant => ?_, fun x sound session => ?_⟩
    · rw [State.retire_vacant (sessionAfter.trans vacant)]
    · rw [State.retire_session (sessionAfter.trans session)]
      exact ⟨_, ends (b := retired) sound.states (sessionAfter.trans session) .retired, rfl⟩
  · rw [exec_eq, if_neg (Nat.not_le.mpr below)]
    have limit : (after.port p).settings.retryLimit = (s.port p).settings.retryLimit := by rw [portAfter]; rfl
    refine ⟨fun idle => ?_, fun x a session awaited => ⟨fun again => ?_, fun sound reached => ?_⟩⟩
    · rw [State.failWait_idle fun x h => idle x (sessionAfter.symm.trans h)]
    · rw [State.failWait_resend (sessionAfter.trans session) awaited (limit ▸ again)]
    · have next : s.stateAfter p = (after.port p).state.afterSession .natural := by rw [portAfter]; rfl
      rw [State.failWait_limit (sessionAfter.trans session) awaited (limit ▸ reached), next]
      exact ⟨_, ends (b := after) sound.states (sessionAfter.trans session) .natural, rfl⟩

end Sys2Proof.Machine

/-! PROOFS. The PORT requests that change a port (R121, R133, R135 to R137, R156). -/

namespace Sys2Proof.Machine

section PortRequests

variable {s : State} {p : PortNo} {tag : Byte} {params : List Byte}

/-! ## How a request reaches its port, and its answer after a change of the port (R132, R188) -/

@[simp] theorem State.taken_port (s : State) (g v tag : Byte) (params : List Byte) (p : PortNo) :
    (s.taken g v tag params).port p = s.port p := rfl

@[simp] theorem State.taken_session (s : State) (g v tag : Byte) (params : List Byte) (p : PortNo) :
    (s.taken g v tag params).session? p = s.session? p := rfl

theorem State.Takes.port_request (h : s.Takes) {length : Nat} (hl : params.length = length)
    (hn : number params 0 1 = p.val) (v tag : Byte) (k : PortNo → State → State) :
    s.request 9 v (.bytes length) false tag params (fun s => s.withPort params k) = k p (s.taken 9 v tag params) := by
  rw [h.request 9 v (.bytes length) false tag params _ hl nofun, State.withPort, hn, below_val]

/-- The outcome of a command that has no reactions. -/
theorem next_congr {u t : State} (h : u = t) :
    Host.Outcome.next u = (.next t : Host.Outcome State Fault Refusal) := by rw [h]

theorem State.taken_updPort_answer (s : State) (p : PortNo) (f : Port → Port) (g v tag : Byte) (params : List Byte)
    (st : Status) (result : List Byte) : ((s.taken g v tag params).updPort p f).answer st result
      = (s.updPort p f).replied g v tag params st result := (s.updPort p f).taken_answer ..

@[simp] theorem State.portStateBytes_updPort (s : State) (p : PortNo) (f : Port → Port) :
    (s.updPort p f).portStateBytes p = be 1 (f (s.port p)).state.code := by
  rw [State.portStateBytes, State.port_updPort_self]

/-- A port put into the state `t`, and `t` reported. -/
theorem State.moved_answer (s : State) (p : PortNo) (t : PortState) (g v tag : Byte) (params : List Byte) :
    State.answer ((s.taken g v tag params).updPort p (fun q => { q with state := t })) .ok
        (((s.taken g v tag params).updPort p (fun q => { q with state := t })).portStateBytes p)
      = (s.updPort p (fun q => { q with state := t })).replied g v tag params .ok (be 1 t.code) := by
  rw [State.portStateBytes_updPort, State.taken_updPort_answer]

/-! ## PORT.SET (R121) -/

theorem PortState.not_settable_iff (t : PortState) :
    (!t.settable) = true ↔ t ≠ .off ∧ t ≠ .dormant ∧ t ≠ .paused := by
  cases t <;> decide

theorem settingsOk_iff (params : List Byte) : (!settingsOk params) = true ↔
    7 < number params 2 1 ∨ 1 < number params 1 1 ∨ 1 < number params 3 1 ∨ 1 < number params 4 1
      ∨ 1 < number params 5 1 := by
  simp only [settingsOk, Bool.not_eq_true', Bool.and_eq_false_iff, decide_eq_false_iff_not, Nat.not_le]
  omega

/-- PORT.SET moves an OFF, DORMANT or PAUSED port by the enable setting alone. -/
theorem PortState.afterSet_of_settable {t : PortState} (h : t.settable = true) (enabled : Bool) :
    t.afterSet enabled = if enabled then (if t = .off then .dormant else t) else .off := by
  cases t with
  | off => cases enabled <;> rfl
  | dormant => cases enabled <;> rfl
  | paused => cases enabled <;> rfl
  | _ => cases h

theorem Settings.ofRequest_eq (params : List Byte) : Settings.ofRequest params =
    ⟨decide (number params 1 1 = 1), number params 2 1, decide (number params 3 1 = 1), decide (number params 4 1 = 1),
      decide (number params 5 1 = 1), max 100 (min 5000 (number params 6 2)), min 5 (number params 8 1),
      min 600 (number params 9 2)⟩ := by
  simp only [Settings.ofRequest, clamp, Nat.zero_max]
  rfl

theorem State.portSet_busy (s : State) (h : (!(s.port p).state.settable) = true) :
    State.portSet params p (s.taken 9 1 tag params) = s.replied 9 1 tag params .portBusy [] := by
  simp only [State.portSet, State.taken_port, if_pos h, State.taken_refuse]

theorem State.portSet_bad_value (s : State) (settable : ¬ (!(s.port p).state.settable) = true)
    (bad : (!settingsOk params) = true) :
    State.portSet params p (s.taken 9 1 tag params) = s.replied 9 1 tag params .badValue [] := by
  simp only [State.portSet, State.taken_port, if_neg settable, if_pos bad, State.taken_refuse]

theorem State.portSet_taken (s : State) (settable : ¬ (!(s.port p).state.settable) = true)
    (good : ¬ (!settingsOk params) = true) :
    let g := Settings.ofRequest params
    let next := (s.port p).state.afterSet g.enabled
    State.portSet params p (s.taken 9 1 tag params) = State.replied
      (s.updPort p (fun q => { q with settings := g, state := next })) 9 1 tag params .ok
      (g.bytes ++ clampedBytes params ++ be 1 next.code) := by
  simp only [State.portSet, State.taken_port, if_neg settable, if_neg good, State.portStateBytes_updPort,
    State.taken_updPort_answer]
  rfl

end PortRequests

/-- Settles O52: by the port's state, then by the codes. -/
theorem portSettings : Obligations.PortSettings := by
  intro s tag params p takes length number
  have exec_eq : exec (.portSet tag params) s = .next (State.portSet params p (s.taken 9 1 tag params)) :=
    next_congr (takes.port_request length number 1 tag _)
  intro st
  have busy_iff := st.not_settable_iff
  have bad_iff := settingsOk_iff params
  rw [exec_eq]
  split
  next busy => rw [State.portSet_busy s (busy_iff.mpr busy)]
  next free =>
    have settable := mt busy_iff.mp free
    split
    next bad => rw [State.portSet_bad_value s settable (bad_iff.mpr bad)]
    next good =>
      rw [State.portSet_taken s settable (mt bad_iff.mp good),
        PortState.afterSet_of_settable (by simpa using settable), clampedBytes, Settings.ofRequest_eq]

end Sys2Proof.Machine

/-! PROOFS. PORT.PAUSE, PORT.RESUME, PORT.READMIT and PORT.RESET, and the session that one of them ends (R133, R135 to
R137, R156). -/

namespace Sys2Proof.Machine

section Requested

variable {s w : State} {p : PortNo} {x : Session} {e : EndOf} {g v tag : Byte} {params : List Byte}

/-! ## A session ended while a request waits for its answer (log entry 6) -/

theorem State.ordersAfter_eq_reportUnit (s : State) (p : PortNo) (x : Session) (e : EndOf) :
    s.ordersAfter p x e = (State.reportUnit { s with orders :=
      { s.orders with waiting := Bank.mapAll (fun l => l.erase p) s.orders.waiting } } p x e.outcome e.hold
      e.unitLater).orders := by
  unfold State.ordersAfter State.reportUnit
  cases x.unitHeld with
  | false => rfl
  | true =>
    cases x.order with
    | none => rfl
    | some n =>
      cases e.outcome with
      | complete => cases e.unitLater <;> rfl
      | _ => rfl

theorem State.ordersAfter_congr {s t : State} (h : s.orders = t.orders) (p : PortNo) (x : Session) (e : EndOf) :
    s.ordersAfter p x e = t.ordersAfter p x e := by
  rw [State.ordersAfter_eq_reportUnit, State.ordersAfter_eq_reportUnit]
  refine State.reportUnit_orders_congr ?_ ..
  simp only [h]

theorem State.journalAfter_congr {s t : State} (journal : s.journal = t.journal) (stamp : s.stamp = t.stamp)
    (p : PortNo) (x : Session) (e : EndOf) : s.journalAfter p x e = t.journalAfter p x e := by
  simp only [State.journalAfter, journal, stamp]
  split
  · refine State.giveBack_journal_congr ?_ _
    rfl
  · rfl

/-- `w`, which came of `s` with a request taken, without what the taking changed: the request in the receive buffer and
the reply owed. -/
def State.untaken (s w : State) : State := { w with link := { s.link with pending := w.link.pending } }

@[simp] theorem State.untaken_port (s w : State) (q : PortNo) : (s.untaken w).port q = w.port q := rfl

theorem SessionOver.untaken (h : SessionOver (s.taken g v tag params) w p x e) : SessionOver s (s.untaken w) p x e where
  port := h.port
  others := h.others
  flag := h.flag
  link := rfl
  engine := h.engine
  slots := h.slots
  keys := h.keys
  orders := h.orders.trans (State.ordersAfter_congr (s := s.taken g v tag params) (t := s) rfl ..)
  journal := h.journal.trans (State.journalAfter_congr (s := s.taken g v tag params) (t := s) rfl rfl ..)
  profiles := h.profiles
  rest := h.rest

/-- The reply to a request after whose taking flags alone have changed of the Link Controller. -/
theorem State.answer_untaken (h : w.link = { (s.taken g v tag params).link with pending := w.link.pending })
    (st : Status) (result : List Byte) :
    w.answer st result = (s.untaken w).replied g v tag params st result := by
  have before : ({ s.link with pending := w.link.pending } : LinkController)
      = { w.link with owed := s.link.owed, buffer := s.link.buffer } := by rw [h]; rfl
  rw [State.answer_replied (g := g) (v := v) (tag := tag) (params := params) (by rw [h]; rfl) (by rw [h]; rfl),
    State.untaken, State.replied_link _ _ _ _ _ _ _ _ before]

variable {r : Reason} {next : PortState}

/-- A session cut off in SETTLING is over, whether or not its settlement's program has begun (R156). -/
theorem State.CutInSettling.ends (h : s.CutInSettling w p x r next) :
    ∃ f e, SessionOver (s.withSettle p f) w p x e ∧ e.next = next := by
  by_cases begun : s.journal.Settles p
  · exact ⟨_, _, h.1 begun, rfl⟩
  · exact ⟨_, _, h.2 begun, rfl⟩

theorem State.CutInSettling.untaken (h : (s.taken g v tag params).CutInSettling w p x r next) :
    s.CutInSettling (s.untaken w) p x r next :=
  ⟨fun begun => (h.1 begun).untaken (s := s.withSettle p _), fun waits => (h.2 waits).untaken (s := s.withSettle p _)⟩

/-! ## PORT.PAUSE (R133) -/

theorem State.portPause_refused (h : (s.port p).state = .off ∨ (s.port p).state = .retired
    ∨ (s.port p).state = .readmitting) :
    State.portPause p (s.taken 9 2 tag params) = s.replied 9 2 tag params .wrongState [] := by
  rcases h with h | h | h <;> simp only [State.portPause, State.taken_port, h, State.taken_refuse]

theorem State.portPause_vacant (h : (s.port p).state = .dormant ∨ (s.port p).state = .listening
    ∨ (s.port p).state = .cooldown ∨ (s.port p).state = .paused) :
    State.portPause p (s.taken 9 2 tag params)
      = (s.updPort p (fun q => { q with state := .paused })).replied 9 2 tag params .ok (be 1 PortState.paused.code) := by
  rcases h with h | h | h | h <;> simp only [State.portPause, State.taken_port, h] <;> exact s.moved_answer ..

theorem State.portPause_pausing (h : (s.port p).state = .pausing) : State.portPause p (s.taken 9 2 tag params)
      = s.replied 9 2 tag params .ok (be 1 PortState.pausing.code) := by
  simp only [State.portPause, State.taken_port, h, State.portStateBytes, State.taken_answer]

/-- The session of a port put into another state is the same. -/
theorem State.moved_session (s : State) (p : PortNo) (t : PortState) :
    (s.updPort p (fun q => { q with state := t })).session? p = s.session? p := by
  rw [State.session?, State.port_updPort_self]
  rfl

theorem State.pauseWaiting_of_not (h : ∀ x, s.session? p = some x → x.waiting = false) : s.pauseWaiting p = s := by
  unfold State.pauseWaiting
  split
  · rename_i x session
    simp [h x session]
  · rfl

theorem State.portPause_session (h : (s.port p).state = .inSession)
    (busy : ∀ x, s.session? p = some x → x.waiting = false) : State.portPause p (s.taken 9 2 tag params)
      = (s.updPort p (fun q => { q with state := .pausing })).replied 9 2 tag params .ok
        (be 1 PortState.pausing.code) := by
  have stays : State.pauseWaiting ((s.taken 9 2 tag params).updPort p (fun q => { q with state := .pausing })) p
      = (s.taken 9 2 tag params).updPort p (fun q => { q with state := .pausing }) :=
    State.pauseWaiting_of_not fun x session =>
      busy x ((State.moved_session (s.taken 9 2 tag params) ..).symm.trans session)
  simp only [State.portPause, State.taken_port, h, stays]
  exact s.moved_answer ..

theorem State.portPause_waiting (sound : s.Sound) (h : (s.port p).state = .inSession)
    (session : s.session? p = some x) (waiting : x.waiting = true) :
    ∃ u : State, SessionOver (s.updPort p (fun q => { q with state := .pausing })) u p x
        (x.endOf .unserved .none none .paused)
      ∧ State.portPause p (s.taken 9 2 tag params) = u.replied 9 2 tag params .ok (be 1 PortState.paused.code) := by
  let asked := s.updPort p (fun q => { q with state := .pausing })
  have seated : (asked.taken 9 2 tag params).session? p = some x := (s.moved_session p .pausing).trans session
  have pausing : (asked.port p).state = .pausing := by simp only [asked, State.port_updPort_self]
  have ended : SessionOver (asked.taken 9 2 tag params)
      ((asked.taken 9 2 tag params).endUnnumbered p .unserved .none none) p x (x.endOf .unserved .none none .paused) := by
    have closed := State.endSession_over (s := asked.taken 9 2 tag params) sound.states seated .unserved .none none false
      false .natural
    rw [State.taken_port, pausing] at closed
    exact closed
  have reported : State.portStateBytes ((asked.taken 9 2 tag params).endUnnumbered p .unserved .none none) p
      = be 1 PortState.paused.code := by rw [State.portStateBytes, ended.port]; rfl
  have waits : State.pauseWaiting (asked.taken 9 2 tag params) p
      = (asked.taken 9 2 tag params).endUnnumbered p .unserved .none none := by
    simp only [State.pauseWaiting, seated, waiting, if_true]
  have paused : State.portPause p (s.taken 9 2 tag params)
      = State.answer (State.pauseWaiting (asked.taken 9 2 tag params) p) .ok
        (State.portStateBytes (State.pauseWaiting (asked.taken 9 2 tag params) p) p) := by
    simp only [State.portPause, State.taken_port, h]
    rfl
  refine ⟨_, ended.untaken, ?_⟩
  rw [paused, waits, reported]
  exact State.answer_untaken ended.link ..

/-! ## PORT.RESUME and PORT.READMIT (R135, R136) -/

theorem State.portResume_paused (h : (s.port p).state = .paused) : State.portResume p (s.taken 9 3 tag params)
      = (s.updPort p (fun q => { q with state := .dormant })).replied 9 3 tag params .ok
        (be 1 PortState.dormant.code) := by
  simp only [State.portResume, State.taken_port, h]
  exact s.moved_answer ..

theorem State.portResume_pausing (h : (s.port p).state = .pausing) : State.portResume p (s.taken 9 3 tag params)
      = (s.updPort p (fun q => { q with state := .inSession })).replied 9 3 tag params .ok
        (be 1 PortState.inSession.code) := by
  simp only [State.portResume, State.taken_port, h]
  exact s.moved_answer ..

theorem State.portResume_refused (paused : (s.port p).state ≠ .paused) (pausing : (s.port p).state ≠ .pausing) :
    State.portResume p (s.taken 9 3 tag params) = s.replied 9 3 tag params .wrongState [] := by
  unfold State.portResume
  split
  · exact absurd ‹_› paused
  · exact absurd ‹_› pausing
  · exact s.taken_refuse ..

theorem State.portReadmit_taken (s : State) (p : PortNo) (tag : Byte) (params : List Byte) :
    State.portReadmit p (s.taken 9 4 tag params) = if (s.port p).state = .retired then
        State.replied (s.updPort p (fun q => { q with state := .readmitting, timerFrom := s.now })) 9 4 tag params .ok
          (be 1 PortState.readmitting.code)
      else s.replied 9 4 tag params .wrongState [] := by
  simp only [State.portReadmit, State.taken_port, State.portStateBytes_updPort, State.taken_updPort_answer,
    State.taken_refuse]
  rfl

/-! ## PORT.RESET (R137) -/

theorem State.portReset_vacant (h : s.session? p = none) : State.portReset p (s.taken 9 5 tag params)
      = State.replied (s.updPort p (fun q => { q with state := (s.port p).state.afterReset, keyArea := KeyArea.blank }))
        9 5 tag params .ok (present 2 none ++ be 1 (s.port p).state.afterReset.code) := by
  have vacant : (s.taken 9 5 tag params).session? p = none := h
  have stays : (s.taken 9 5 tag params).interrupt p .reset .reset = s.taken 9 5 tag params := by
    simp only [State.interrupt, vacant]
  simp only [State.portReset, stays, vacant, Option.isSome_none, Bool.false_eq_true, if_false,
    State.portStateBytes_updPort, State.taken_port, State.taken_updPort_answer]
  rfl

/-- With a session the reply reports what the end of the session left on the port. -/
theorem State.portReset_session (h : s.session? p = some x) :
    let w := (s.taken 9 5 tag params).interrupt p .reset .reset
    State.portReset p (s.taken 9 5 tag params)
      = w.answer .ok (present 2 ((w.port p).lastEnd.map endingBytes) ++ be 1 (w.port p).state.code) := by
  simp only [State.portReset, State.taken_session, h, Option.isSome_some, if_true]
  rfl

theorem State.portReset_ends {o : Ending} (session : s.session? p = some x)
    (ended : SessionOver (s.taken 9 5 tag params) ((s.taken 9 5 tag params).interrupt p .reset .reset) p x
      (x.endOf o r none next)) :
    ∃ u : State, SessionOver s u p x (x.endOf o r none next) ∧ State.portReset p (s.taken 9 5 tag params)
      = u.replied 9 5 tag params .ok (present 2 (some (be 1 o.code ++ be 1 r.code)) ++ be 1 next.code) := by
  refine ⟨_, ended.untaken, ?_⟩
  rw [State.portReset_session session, ended.port, State.answer_untaken ended.link]
  rfl

theorem State.portReset_cut (session : s.session? p = some x)
    (cut : (s.taken 9 5 tag params).CutInSettling ((s.taken 9 5 tag params).interrupt p .reset .reset) p x .reset next) :
    ∃ u : State, s.CutInSettling u p x .reset next ∧ State.portReset p (s.taken 9 5 tag params)
      = u.replied 9 5 tag params .ok (present 2 ((u.port p).lastEnd.map (fun e => be 1 e.1.code ++ be 1 e.2.code))
        ++ be 1 next.code) := by
  obtain ⟨f, e, ended, state⟩ := cut.ends
  refine ⟨_, cut.untaken, ?_⟩
  rw [State.portReset_session session, State.answer_untaken (s := s) ended.link, ← state]
  rw [State.untaken_port, ended.port]
  rfl

end Requested

/-- Settles O53: each request by the state of its port, and PORT.RESET by the phase of its session. -/
theorem portRequests : Obligations.PortRequests := by
  intro s tag params p takes length number st to'
  have pause_eq : exec (.portPause tag params) s
      = .next (State.settle (State.portPause p (s.taken 9 2 tag params))) :=
    settled_congr (takes.port_request length number 2 tag _)
  have resume_eq : exec (.portResume tag params) s = .next (State.portResume p (s.taken 9 3 tag params)) :=
    next_congr (takes.port_request length number 3 tag _)
  have readmit_eq : exec (.portReadmit tag params) s = .next (State.portReadmit p (s.taken 9 4 tag params)) :=
    next_congr (takes.port_request length number 4 tag _)
  have reset_eq : exec (.portReset tag params) s
      = .next (State.settle (State.portReset p (s.taken 9 5 tag params))) :=
    settled_congr (takes.port_request length number 5 tag _)
  rw [pause_eq, resume_eq, readmit_eq, reset_eq]
  refine ⟨fun h => ?_, fun h => ?_, fun h busy => ?_, fun h => ?_, fun x sound h session waiting => ?_, fun h => ?_,
    fun h => ?_, fun paused pausing => ?_, ?_, ?_⟩
  · rw [State.portPause_refused h]
  · rw [State.portPause_vacant h]
  · rw [State.portPause_session h busy]
  · rw [State.portPause_pausing h]
  · obtain ⟨u, ended, answered⟩ := State.portPause_waiting (tag := tag) (params := params) sound h session waiting
    exact ⟨u, ended, by rw [answered]⟩
  · rw [State.portResume_paused h]
  · rw [State.portResume_pausing h]
  · rw [State.portResume_refused paused pausing]
  · rw [State.portReadmit_taken]
  · intro rest
    have rest_eq : rest = (s.port p).state.afterReset := by
      simp only [rest, st]
      cases (s.port p).state <;> rfl
    rw [rest_eq]
    refine ⟨fun vacant => ?_, fun x sound session unsettled => ?_, fun x sound session settling => ?_⟩
    · rw [State.portReset_vacant vacant]
    · have slots : (s.taken 9 5 tag params).StatesSound := sound.states
      intro o r
      by_cases closing : x.phase = .closing
      · obtain ⟨u, ended, answered⟩ :=
          State.portReset_ends session (State.interrupt_closing slots session closing .reset .reset)
        simp only [o, r, closing, if_true]
        exact ⟨u, ended, by rw [answered]; rfl⟩
      · obtain ⟨u, ended, answered⟩ :=
          State.portReset_ends session (State.interrupt_running slots session unsettled closing .reset .reset)
        simp only [o, r, closing, if_false]
        exact ⟨u, ended, by rw [answered]; rfl⟩
    · obtain ⟨u, cut, answered⟩ :=
        State.portReset_cut session (State.interrupt_settling (s := s.taken 9 5 tag params) sound.states session settling
          .reset .reset)
      exact ⟨u, cut, by rw [answered]; rfl⟩

end Sys2Proof.Machine

/-! PROOFS. The lamps, and the events of a port's line that are no frame (R123, R129, R131, R135, R140). -/

namespace Sys2Proof.Machine

section Line

variable {s : State} {p : PortNo}

/-! ## Lamps (R140) -/

theorem State.lamp_shutdown (p : PortNo) (h : s.link.mode = .shutdown) : s.lamp p = .off := by
  simp [State.lamp, State.isShutdown, h]

theorem State.lamp_running (p : PortNo) (h : s.link.mode ≠ .shutdown) : s.lamp p = (s.port p).lamp := by
  simp [State.lamp, State.isShutdown, h]

/-- The lamp's eight steps by the port's state. -/
theorem Port.lamp_steps (q : Port) : q.lamp.steps =
    if q.state = .off ∨ q.state = .dormant ∨ q.state = .paused then List.replicate 8 false
    else if q.state = .listening then [true, true, true, true, false, false, false, false]
    else if q.state = .inSession ∨ q.state = .pausing then
      if (q.session.bind (·.device)).isSome = true then [true, false, true, false, true, false, true, false]
      else [true, true, true, true, false, false, false, false]
    else if q.state = .cooldown then
      if q.lastEnd.map (·.1) = some .complete then List.replicate 8 true
      else [true, false, true, false, false, false, false, false]
    else [true, false, false, false, false, false, false, false] := by
  cases state : q.state with
  | inSession | pausing =>
    simp only [Port.lamp, state, reduceCtorEq, or_false, false_or, if_false, if_true]
    split <;> rfl
  | cooldown =>
    simp only [Port.lamp, state, reduceCtorEq, or_false, if_false, if_true]
    split <;> rfl
  | _ => simp [Port.lamp, state, Lamp.steps]

/-! ## Events of the line (R123, R129, R131, R135) -/

theorem State.onLine_running (h : s.link.mode ≠ .shutdown) (k : State → State) : s.onLine k = k s := by
  have running : s.isShutdown = false := by simpa [State.isShutdown] using h
  simp [State.onLine, running]

theorem Port.decodes_iff (q : Port) :
    q.decodes = true ↔ q.state = .listening ∨ q.state = .inSession ∨ q.state = .pausing := by
  simp [Port.decodes, or_assoc]

/-- A quiet count ends in the port state `t`, unless activity has restarted it in the same second (log entry 7). -/
theorem State.quiet_ends_iff (s : State) (p : PortNo) (t : PortState) :
    (decide ((s.port p).state = t) && !s.begunNow (s.port p).timerFrom) = true
      ↔ (s.port p).state = t ∧ (s.port p).timerFrom ≠ s.now := by
  simp [State.begunNow]

end Line

/-- Settles O54: the lamps by the port's state, and each event by the states in which it counts. -/
theorem lineEvents : Obligations.LineEvents := by
  refine ⟨fun s p => ⟨fun down => ?_, fun running => ?_⟩, fun s p running => ⟨?_, ?_, ?_, ?_, ?_⟩⟩
  · rw [State.lamp_shutdown p down]
    rfl
  · rw [State.lamp_running p running]
    exact (s.port p).lamp_steps
  all_goals refine next_congr ((State.onLine_running running _).trans ?_)
  · rfl
  · simp only [Port.decodes_iff]
  · rfl
  · simp only [State.quiet_ends_iff]
  · simp only [State.quiet_ends_iff, State.raisePort_flagged]

end Sys2Proof.Machine

/-! PROOFS. Which commands leave the settings of a port and the time as they are (R121, R191). -/

namespace Sys2Proof.Machine

/-! ## Requests that name a profile, an entry or an order (R84, R93, R103) -/

theorem Follows.withProfile {s₀ s : State} (h : Follows s₀ s) (params : List Byte) (k : Fin 16 → State → State)
    (hk : ∀ n, Follows s₀ (k n s)) : Follows s₀ (s.withProfile params k) := by
  unfold State.withProfile
  split
  · exact h.refuse _
  · exact hk _

theorem Follows.withEntry {s₀ s : State} (h : Follows s₀ s) (params : List Byte) (k : Fin 32 → State → State)
    (hk : ∀ n, Follows s₀ (k n s)) : Follows s₀ (s.withEntry params k) := by
  unfold State.withEntry
  split
  · exact h.refuse _
  · exact hk _

theorem val_of_below {n v : Nat} {i : Fin n} (h : below n v = some i) : i.val = v := by
  unfold below at h
  split at h
  · cases h; rfl
  · cases h

theorem Follows.placeNumbered {s₀ s : State} (h : Follows s₀ s) (params : List Byte) :
    Follows s₀ (s.withNumber params (fun n s => s.ordPlace n params)) := by
  have small := number_lt params 0 2
  unfold State.withNumber
  dsimp only
  split
  · exact h.refuse _
  · exact h.ordPlace _ _ (by omega)

/-- From `s` to `t` the settings of the ports in `P` stand, and if `T` holds the seconds count and its flag stand. -/
structure Steady (P : PortNo → Prop) (T : Prop) (s t : State) : Prop where
  settings : ∀ p, P p → (t.port p).settings = (s.port p).settings
  stamp : T → t.stamp = s.stamp

namespace Steady

variable {P : PortNo → Prop} {T : Prop} {s t u : State}

theorem same (s : State) : Steady P T s s := ⟨fun _ _ => rfl, fun _ => rfl⟩

theorem trans (h : Steady P T s t) (k : Steady P T t u) : Steady P T s u :=
  ⟨fun p hp => (k.settings p hp).trans (h.settings p hp), fun hT => (k.stamp hT).trans (h.stamp hT)⟩

/-- What the part's own operations make of a state keeps all settings and the time. -/
theorem of_follows (h : Follows s t) : Steady P T s t where
  settings p _ := h.settings p
  stamp _ := by
    unfold State.stamp
    rw [h.link]

theorem of_unchanged (ports : t.ports = s.ports := by rfl) (stamp : t.stamp = s.stamp := by rfl) : Steady P T s t :=
  ⟨fun p _ => by simp [State.port, ports], fun _ => stamp⟩

theorem of_timed (timed : ¬ T) (ports : t.ports = s.ports := by rfl) : Steady P T s t :=
  ⟨fun p _ => by simp [State.port, ports], fun untimed => absurd untimed timed⟩

theorem updPort (s : State) (p : PortNo) (f : Port → Port) (h : ∀ q, (f q).settings = q.settings := by intro _; rfl) :
    Steady P T s (s.updPort p f) where
  settings q _ := by
    by_cases e : q = p
    · rw [e, State.port_updPort_self, h]
    · rw [State.port_updPort_ne s f e]
  stamp _ := rfl

theorem settle (h : Steady P T s t) : Steady P T s t.settle := h.trans (of_follows (Follows.refl t).settle)

theorem answer (h : Steady P T s t) (st : Status) (result : List Byte) : Steady P T s (t.answer st result) :=
  h.trans (of_follows ((Follows.refl t).answer st result))

theorem refuse (h : Steady P T s t) (st : Status) : Steady P T s (t.refuse st) := h.answer st []

theorem ite {c : Prop} [Decidable c] (h : c → Steady P T s t) (k : ¬ c → Steady P T s u) :
    Steady P T s (if c then t else u) := by
  split
  · exact h ‹_›
  · exact k ‹_›

/-! ## The workstation link (R185 to R188) -/

theorem takeFrame (g v tag : Byte) (params : List Byte) {k : State → State} (h : ∀ u, Steady P T u (k u)) :
    Steady P T s (s.takeFrame g v tag params k) := by
  unfold State.takeFrame
  split
  · split
    · exact of_unchanged
    · exact .trans of_unchanged (h _)
  · exact same s

theorem request (g v : Byte) (shape : Shape) (e : Bool) (tag : Byte) (params : List Byte) {owner : State → State}
    (h : ∀ u, Steady P T u (owner u)) : Steady P T s (s.request g v shape e tag params owner) :=
  takeFrame g v tag params fun u =>
    ite (fun _ => (same u).refuse _) fun _ => ite (fun _ => (same u).refuse _) fun _ =>
      ite (fun _ => (same u).refuse _) fun _ => ite (fun _ => (same u).refuse _) fun _ => h u

/-- A request whose owner does no more than the part's own operations. -/
theorem served {g v : Byte} {shape : Shape} {e : Bool} {tag : Byte} {params : List Byte} {owner : State → State}
    (h : ∀ u, Follows u (owner u)) : Steady P T s (s.request g v shape e tag params owner) :=
  request g v shape e tag params fun u => of_follows (h u)

theorem frameBegun {k : State → State} (h : ∀ u, Steady P T u (k u)) : Steady P T s (s.frameBegun k) := by
  unfold State.frameBegun
  split
  · split
    · exact of_unchanged
    · exact h s
  · exact same s

theorem owedNak (h : Steady P T s t) (st : Status) : Steady P T s (t.owedNak st) :=
  (h.trans of_unchanged).answer st []

/-- PORT.SET writes the settings of the port it names alone. -/
theorem portSet {params : List Byte} (spared : ∀ p, P p → number params 0 1 ≠ p.val) :
    Steady P T s (s.withPort params (State.portSet params)) := by
  unfold State.withPort
  split
  · exact (same s).refuse _
  · rename_i named found
    refine ite (fun _ => (same s).refuse _) fun _ => ite (fun _ => (same s).refuse _) fun _ => answer ?_ _ _
    refine ⟨fun p hp => ?_, fun _ => rfl⟩
    have other : p ≠ named := fun e => spared p hp (by rw [e, val_of_below found])
    rw [State.port_updPort_ne _ _ other]

/-! ## The other lines (R27, R123, R125, R141) -/

theorem padHeard (l : Line) {k : State → State} (h : Steady P T s (k s)) : Steady P T s (s.padHeard l k) :=
  ite (fun _ => same s) fun _ => ite (fun _ => same s) fun _ => ite (fun _ => of_unchanged) fun _ => h

theorem badPadFrame (s : State) (l : Line) : Steady P T s (s.badPadFrame l) :=
  of_follows (((Follows.refl s).sendResult ..).raiseGlobal _)

theorem padLengthBad (s : State) (l : Line) : Steady P T s (s.padLengthBad l) := by
  refine ite (fun _ => same s) fun _ => ?_
  split
  · exact of_unchanged
  · exact same s
  · exact of_unchanged

theorem onLine {k : State → State} (h : Steady P T s (k s)) : Steady P T s (s.onLine k) :=
  ite (fun _ => same s) fun _ => h

theorem activity (s : State) (p : PortNo) : Steady P T s (s.activity p) := by
  unfold State.activity
  split
  · exact updPort s p _
  · exact updPort s p _
  · exact updPort s p _
  · exact same s

theorem received (p : PortNo) (chars : List Byte) {k : Judged → State → State} (h : ∀ j, Steady P T s (k j s)) :
    Steady P T s (s.received p chars k) :=
  onLine (ite (fun _ => activity s p) fun _ => ite (fun _ => same s) fun _ => h _)

theorem takeAnswer (p : PortNo) (chars : List Byte) (type : Byte) {k : Session → FrameType → BenchFrame → State → State}
    (h : ∀ x a f u, Steady P T u (k x a f u)) : Steady P T s (s.takeAnswer p chars type k) := by
  refine received p chars fun j => ?_
  split
  · split
    · exact ite (fun _ => .trans (of_follows (((Follows.refl s).scoreGood p).answerTaken p)) (h ..)) fun _ => same s
    · exact same s
  · exact same s

/-! ## The power-fail warning and the Journal (R156, R171, R190) -/

theorem shutDown (s : State) : Steady P T s s.shutDown := by
  have stopped : Steady P T s { s with
      link := { s.link with mode := .shutdown }, agenda := [], ports := Bank.mapAll Port.stopped s.ports } :=
    ⟨fun p _ => by simp [State.port], fun _ => rfl⟩
  exact (stopped.trans of_unchanged).trans (of_follows (Follows.refl _).stopVerify.stopRequest)

theorem settlementTold (s : State) (e : SettlementEntry) : Steady P T s (s.settlementTold e) := by
  unfold State.settlementTold
  extract_lets told
  have reported : Steady P T s told := by
    simp only [told]
    split
    · exact of_follows ((Follows.refl s).settlementReported _)
    · exact same s
  split
  · exact reported.trans (of_follows ((Follows.refl told).unitCompleted ..))
  · exact reported

theorem settlementOver (s : State) (e : QueueEntry) : Steady P T s (s.settlementOver e) := by
  refine .trans (of_unchanged (t := s.updJournal (fun j => { j.popHead with flash := .idle }))) ?_
  refine ite (fun _ => same _) fun _ => ?_
  split
  · exact ite (fun _ => (settlementTold _ _).trans (of_follows (Follows.refl _).serveWaiters))
      fun _ => settlementTold _ _
  · exact of_follows (Follows.refl _).serveWaiters

end Steady

/-! ## Every command but a reset -/

/-- Port `p` is not the one that `c`, if it is PORT.SET, names. -/
def SparesPort (c : Instr) (p : PortNo) : Prop := ∀ tag params, c = .portSet tag params → number params 0 1 ≠ p.val

/-- `c` is neither SECONDS_TICK nor DEV.TIME. -/
def KeepsTime (c : Instr) : Prop := c ≠ .secondsTick ∧ ∀ tag params, c ≠ .devTime tag params

/-- The outcome of a command from `s` is a next state with the settings of the ports in `P`, and if `T` holds the time,
as in `s`. -/
def AnswersSteady (P : PortNo → Prop) (T : Prop) (s : State) (o : Host.Outcome State Fault Refusal) : Prop :=
  ∃ t, o = .next t ∧ Steady P T s t

section Commands

variable {s : State} {c : Instr}

open Steady

/-! ### Events whose meaning chooses its outcome by what it finds, with or without reactions. -/

variable {P : PortNo → Prop} {T : Prop}

theorem zeroizationBegins_steady (s : State) : AnswersSteady P T s (execZeroizationBegins s) := by
  have pinned : Steady P T s { s with pins := { s.pins with tamper := true } } := of_unchanged
  unfold execZeroizationBegins
  split
  · exact ⟨_, rfl, same s⟩
  · dsimp only
    split
    · exact ⟨_, rfl, pinned⟩
    · exact ⟨_, rfl, settle (pinned.trans (of_follows (Follows.refl _).zeroize))⟩

theorem zeroizationEnd_steady (s : State) : AnswersSteady P T s (execZeroizationEnd s) := by
  unfold execZeroizationEnd
  split
  · exact ⟨_, rfl, settle (of_follows (Follows.refl s).zeroizeEnds)⟩
  · exact ⟨_, rfl, same s⟩

theorem assemblyLimitEnd_steady (s : State) : AnswersSteady P T s (execAssemblyLimitEnd s) := by
  unfold execAssemblyLimitEnd
  split
  · exact ⟨_, rfl, same s⟩
  · split
    · exact ⟨_, rfl, same s⟩
    · split
      · exact ⟨_, rfl, same s⟩
      · split
        · exact ⟨_, rfl, of_unchanged⟩
        · exact ⟨_, rfl, settle (of_follows ((Follows.refl s).failAssembly _))⟩

theorem flashProgramEnd_steady (s : State) (result : AppendResult) :
    AnswersSteady P T s (execFlashProgramEnd result s) := by
  unfold execFlashProgramEnd
  split
  · rename_i seq bytes e flash head
    exact ⟨_, rfl, settle (of_follows ((Follows.refl s).appendEnd e seq bytes result
      fun lawful => lawful.journal.program seq bytes flash))⟩
  · exact ⟨_, rfl, same s⟩

theorem settlementProgramEnd_steady (s : State) (result : ReadBack) :
    AnswersSteady P T s (execSettlementProgramEnd result s) := by
  unfold execSettlementProgramEnd
  split
  · exact ⟨_, rfl, settle (.trans (of_follows ((Follows.refl s).partProgrammed ..)) (settlementOver ..))⟩
  · exact ⟨_, rfl, settle (.trans (of_follows ((Follows.refl s).partProgrammed ..)) (settlementOver ..))⟩
  · exact ⟨_, rfl, same s⟩

theorem eraseEnd_steady (s : State) (result : EraseResult) : AnswersSteady P T s (execEraseEnd result s) := by
  unfold execEraseEnd
  split
  · exact ⟨_, rfl, settle (of_follows ((Follows.refl s).eraseDone ..))⟩
  · exact ⟨_, rfl, same s⟩

theorem counterRebuildEnd_steady (s : State) : AnswersSteady P T s (execCounterRebuildEnd s) := by
  unfold execCounterRebuildEnd
  split
  · exact ⟨_, rfl, settle of_unchanged⟩
  · exact ⟨_, rfl, same s⟩

/-! ### The requests of the catalogue, and the other commands (R199) -/

theorem request_steady {row : RequestRow} (h : requestOf c = some row) :
    AnswersSteady (SparesPort c) (KeepsTime c) s (exec c s) := by
  cases c with
  | devIdentify tag params => exact ⟨_, rfl, served fun u => (Follows.refl u).answer ..⟩
  | devStatus tag params => exact ⟨_, rfl, served fun u => (Follows.refl u).answer ..⟩
  | devTime tag params =>
    exact ⟨_, rfl, request _ _ _ _ _ _ fun u => answer (of_timed fun untimed => untimed.2 tag params rfl) _ _⟩
  | devRestart tag params => exact ⟨_, rfl, request _ _ _ _ _ _ fun u => answer of_unchanged _ _⟩
  | evtRead tag params => exact ⟨_, rfl, request _ _ _ _ _ _ fun u => answer of_unchanged _ _⟩
  | evtMask tag params =>
    exact ⟨_, rfl, request _ _ _ _ _ _ fun u => ite (fun _ => (same u).refuse _) fun _ => answer of_unchanged _ _⟩
  | slotList tag params =>
    exact ⟨_, rfl, settle (request _ _ _ _ _ _ fun u => ite (fun _ => (same u).refuse _)
      fun _ => of_follows (Follows.listSlots _ _ (Follows.refl u)))⟩
  | slotInfo tag params =>
    exact ⟨_, rfl, settle (served fun u => (Follows.refl u).withSlot _ _ fun i =>
      ((Follows.refl u).readSlot i _).answer ..)⟩
  | slotVerify tag params =>
    exact ⟨_, rfl, settle (served fun u => (Follows.refl u).withSlot _ _ fun i => (Follows.refl u).slotVerify i)⟩
  | slotSuspend tag params =>
    exact ⟨_, rfl, settle (served fun u => (Follows.refl u).withSlot _ _ fun i => (Follows.refl u).slotSuspend i)⟩
  | slotRange tag params =>
    exact ⟨_, rfl, settle (served fun u => (Follows.refl u).withSlot _ _ fun i => (Follows.refl u).slotRange _ i)⟩
  | slotResume tag params =>
    exact ⟨_, rfl, settle (served fun u => (Follows.refl u).withSlot _ _ fun i => (Follows.refl u).slotResume i)⟩
  | slotErase tag params =>
    exact ⟨_, rfl, settle (served fun u => (Follows.refl u).withSlot _ _ fun i => (Follows.refl u).slotErase i)⟩
  | custOpen tag params =>
    refine ⟨_, rfl, settle (served fun u => ?_)⟩
    split
    · exact (Follows.refl u).refuse _
    · exact (Follows.refl u).custOpen _
  | custCancel tag params =>
    refine ⟨_, rfl, settle (served fun u => ?_)⟩
    split
    · exact (Follows.refl u).refuse _
    · exact ((Follows.refl u).failAssembly _).answer ..
  | custClose tag params =>
    exact ⟨_, rfl, served fun u => (((Follows.refl u).closeWindow true).barWindow true).answer ..⟩
  | custStatus tag params => exact ⟨_, rfl, served fun u => (Follows.refl u).answer ..⟩
  | engHold tag params => exact ⟨_, rfl, request _ _ _ _ _ _ fun u => answer of_unchanged _ _⟩
  | engResume tag params => exact ⟨_, rfl, settle (request _ _ _ _ _ _ fun u => answer of_unchanged _ _)⟩
  | engStatus tag params => exact ⟨_, rfl, served fun u => (Follows.refl u).answer ..⟩
  | profWrite tag params =>
    exact ⟨_, rfl, settle (served fun u => (Follows.refl u).withProfile _ _ fun n => (Follows.refl u).profWrite n _)⟩
  | profDelete tag params =>
    exact ⟨_, rfl, settle (served fun u => (Follows.refl u).withProfile _ _ fun n => (Follows.refl u).profDelete n)⟩
  | profRead tag params =>
    exact ⟨_, rfl, served fun u => (Follows.refl u).withProfile _ _ fun n =>
      ((Follows.refl u).readProfile n).answer ..⟩
  | matchRead tag params =>
    exact ⟨_, rfl, served fun u => (Follows.refl u).withEntry _ _ fun n =>
      ((Follows.refl u).readEntry n true).answer ..⟩
  | matchWrite tag params =>
    exact ⟨_, rfl, settle (served fun u => (Follows.refl u).withEntry _ _ fun n => (Follows.refl u).matchWrite n _)⟩
  | matchEnable tag params =>
    exact ⟨_, rfl, settle (served fun u => (Follows.refl u).withEntry _ _ fun n => (Follows.refl u).matchEnable n)⟩
  | matchDisable tag params =>
    exact ⟨_, rfl, settle (served fun u => (Follows.refl u).withEntry _ _ fun n => (Follows.refl u).matchDisable n)⟩
  | ordPlace tag params => exact ⟨_, rfl, settle (served fun u => (Follows.refl u).placeNumbered params)⟩
  | ordAmend tag params =>
    exact ⟨_, rfl, settle (served fun u => (Follows.refl u).withOrder _ _ fun o _ => (Follows.refl u).ordAmend _ o)⟩
  | ordHold tag params =>
    exact ⟨_, rfl, served fun u => (Follows.refl u).withOrder _ _ fun o _ => (Follows.refl u).ordHold o⟩
  | ordRelease tag params =>
    exact ⟨_, rfl, settle (served fun u => (Follows.refl u).withOrder _ _ fun o _ => (Follows.refl u).ordRelease o)⟩
  | ordAbort tag params =>
    exact ⟨_, rfl, settle (served fun u => (Follows.refl u).withOrder _ _ fun o _ => (Follows.refl u).ordAbort o)⟩
  | ordRetire tag params =>
    exact ⟨_, rfl, served fun u => (Follows.refl u).withOrder _ _ fun o _ => (Follows.refl u).ordRetire o⟩
  | ordStatus tag params =>
    exact ⟨_, rfl, served fun u => (Follows.refl u).withOrder _ _ fun o _ => (Follows.refl u).answer ..⟩
  | ordList tag params => exact ⟨_, rfl, served fun u => (Follows.refl u).answer ..⟩
  | portSet tag params => exact ⟨_, rfl, request _ _ _ _ _ _ fun u => portSet fun p spared => spared tag params rfl⟩
  | portPause tag params =>
    exact ⟨_, rfl, settle (served fun u => (Follows.refl u).withPort _ _ fun p => (Follows.refl u).portPause p)⟩
  | portResume tag params =>
    exact ⟨_, rfl, served fun u => (Follows.refl u).withPort _ _ fun p => (Follows.refl u).portResume p⟩
  | portReadmit tag params =>
    exact ⟨_, rfl, served fun u => (Follows.refl u).withPort _ _ fun p => (Follows.refl u).portReadmit p⟩
  | portReset tag params =>
    exact ⟨_, rfl, settle (served fun u => (Follows.refl u).withPort _ _ fun p => (Follows.refl u).portReset p)⟩
  | portStatus tag params =>
    exact ⟨_, rfl, served fun u => (Follows.refl u).withPort _ _ fun p => (Follows.refl u).answer ..⟩
  | jrnStatus tag params => exact ⟨_, rfl, settle (served fun u => (Follows.refl u).takeRequest _)⟩
  | jrnRead tag params => exact ⟨_, rfl, settle (served fun u => (Follows.refl u).takeRequest _)⟩
  | jrnRelease tag params => exact ⟨_, rfl, settle (served fun u => (Follows.refl u).takeRequest _)⟩
  | _ => cases h

theorem event_steady (h : requestOf c = none) (reset : isReset c = false) :
    AnswersSteady (SparesPort c) (KeepsTime c) s (exec c s) := by
  cases c with
  | startingEnds => exact ⟨_, rfl, ite (fun _ => of_unchanged) fun _ => same s⟩
  | pfwTaken =>
    exact ⟨_, rfl, ite (fun _ => of_unchanged) fun _ =>
      .trans (of_unchanged (t := { s with pins := { s.pins with pfw := true } })) (shutDown _)⟩
  | zeroizationBegins => exact zeroizationBegins_steady s
  | zeroizationEnd => exact zeroizationEnd_steady s
  | tamperDeasserted => exact ⟨_, rfl, of_unchanged⟩
  | secondsTick => exact ⟨_, rfl, of_timed fun untimed => untimed.1 rfl⟩
  | linkBadLength length => exact ⟨_, rfl, ite (fun _ => same s) fun _ => frameBegun fun u => of_unchanged⟩
  | linkByteGap received => exact ⟨_, rfl, frameBegun fun u => owedNak of_unchanged _⟩
  | linkCrcError body crc => exact ⟨_, rfl, ite (fun _ => same s) fun _ => frameBegun fun u => owedNak of_unchanged _⟩
  | linkResyncQuiet => exact ⟨_, rfl, ite (fun _ => owedNak of_unchanged _) fun _ => same s⟩
  | linkOverrunFrame received => exact ⟨_, rfl, ite (fun _ => of_unchanged) fun _ => same s⟩
  | unknownRequest group verb tag params =>
    refine ⟨_, rfl, ite (fun _ => same s) fun _ => takeFrame _ _ _ _ fun u => ?_⟩
    split <;> exact (same u).refuse _
  | linkReplySent =>
    refine ⟨_, rfl, ?_⟩
    split
    · exact of_unchanged
    · exact same s
  | linkSkipGap => exact ⟨_, rfl, ite (fun _ => of_unchanged) fun _ => same s⟩
  | padPresence line custodian =>
    exact ⟨_, rfl, settle (padHeard line (ite
      (fun numbered => of_follows ((Follows.refl s).takePresence _ _ (by simpa [custodianOk] using numbered)))
      fun _ => badPadFrame s line))⟩
  | padWithdraw line =>
    refine ⟨_, rfl, padHeard line ?_⟩
    split
    · exact of_follows (((Follows.refl s).endPresence line).sendResult ..)
    · exact of_follows ((Follows.refl s).sendResult ..)
  | padComponent line custodian component stated =>
    exact ⟨_, rfl, settle (padHeard line (ite (fun _ => of_unchanged) fun _ => badPadFrame s line))⟩
  | padBadFrame line body crc =>
    exact ⟨_, rfl, ite (fun _ => padHeard line (badPadFrame s line)) fun _ => same s⟩
  | padBadLength line length => exact ⟨_, rfl, ite (fun _ => same s) fun _ => padLengthBad s line⟩
  | padFrameGap line => exact ⟨_, rfl, padHeard line (badPadFrame s line)⟩
  | padQuiet line =>
    refine ⟨_, rfl, ite (fun _ => same s) fun _ => ?_⟩
    split
    · exact same s
    · exact .trans of_unchanged (of_follows ((Follows.refl (s.setPadReceiver line .listening)).sendResult ..))
    · exact of_unchanged
  | padFrameUnanswered line => exact ⟨_, rfl, ite (fun _ => of_unchanged) fun _ => same s⟩
  | presenceLifetimeEnd line =>
    exact ⟨_, rfl, ite (fun _ => same s) fun _ => of_follows ((Follows.refl s).endPresence line)⟩
  | windowExpiry => exact ⟨_, rfl, ite (fun _ => same s) fun _ => of_follows ((Follows.refl s).closeWindow true)⟩
  | assemblyLimitEnd => exact assemblyLimitEnd_steady s
  | jobEnd => exact ⟨_, rfl, settle (of_follows (Follows.refl s).endJob)⟩
  | lineActivity port => exact ⟨_, rfl, onLine (activity s port)⟩
  | benchInStep port => exact ⟨_, rfl, onLine (ite (fun _ => updPort s port _) fun _ => same s)⟩
  | benchCheckError port chars =>
    refine ⟨_, rfl, settle (received port chars fun j => ?_)⟩
    split
    · exact of_follows ((Follows.refl s).lineError port _)
    · exact same s
  | benchLengthError port chars =>
    refine ⟨_, rfl, settle (received port chars fun j => ?_)⟩
    split
    · exact of_follows (((Follows.refl s).portFrame port _).lineError port _)
    · exact same s
  | benchCut port chars =>
    refine ⟨_, rfl, settle (received port chars fun j => ?_)⟩
    split
    · exact of_follows ((Follows.refl s).lineError port _)
    · exact same s
  | responseTimeout port =>
    exact ⟨_, rfl, settle (onLine (ite (fun _ => of_follows ((Follows.refl s).lineError port _)) fun _ => same s))⟩
  | listeningPeriodEnd port => exact ⟨_, rfl, onLine (ite (fun _ => updPort s port _) fun _ => same s)⟩
  | cooldownEnd port => exact ⟨_, rfl, onLine (ite (fun _ => updPort s port _) fun _ => same s)⟩
  | readmissionEnd port =>
    exact ⟨_, rfl, onLine (ite
      (fun _ => (updPort s port _).trans (of_follows ((Follows.refl _).raisePort _ port))) fun _ => same s)⟩
  | hello port chars =>
    refine ⟨_, rfl, settle (received port chars fun j => ?_)⟩
    split
    · exact ite (fun _ => (updPort s port _).trans (of_follows ((Follows.refl _).greet port _))) fun _ => same s
    · exact same s
  | ready port chars =>
    refine ⟨_, rfl, settle (takeAnswer port chars _ fun x a f u => ?_)⟩
    split
    · exact of_follows ((Follows.refl u).askUnit port)
    · exact ite (fun _ => of_follows ((Follows.refl u).enterLoading port)) fun _ => same u
    · exact of_follows ((Follows.refl u).endComplete port _)
    · exact same u
  | ack port chars =>
    exact ⟨_, rfl, settle (takeAnswer port chars _ fun x a f u =>
      ite (fun _ => of_follows (((Follows.refl u).updSession port _).sendLoad port))
        fun _ => of_follows ((Follows.refl u).endSpoiled port _))⟩
  | nak port chars =>
    exact ⟨_, rfl, settle (takeAnswer port chars _ fun x a f u => of_follows ((Follows.refl u).endSpoiled port _))⟩
  | done port chars =>
    exact ⟨_, rfl, settle (takeAnswer port chars _ fun x a f u => of_follows ((Follows.refl u).enterSettling port))⟩
  | idleTimeExpiry port =>
    refine ⟨_, rfl, onLine ?_⟩
    split
    · exact ite (fun _ => of_follows ((Follows.refl s).sendAwaiting port _ _)) fun _ => same s
    · exact same s
  | waitLimitExpiry port =>
    refine ⟨_, rfl, settle (onLine ?_)⟩
    split
    · exact ite (fun _ => of_follows ((Follows.refl s).endUnnumbered port _ _ _)) fun _ => same s
    · exact same s
  | journalWaitExpiry port =>
    exact ⟨_, rfl, settle (onLine (ite
      (fun _ => of_follows ((Follows.refl s).endUnnumbered port _ _ _)) fun _ => same s))⟩
  | flashProgramEnd result => exact flashProgramEnd_steady s result
  | settlementProgramEnd result => exact settlementProgramEnd_steady s result
  | eraseEnd result => exact eraseEnd_steady s result
  | counterRebuildEnd => exact counterRebuildEnd_steady s
  | powerOnReset found => cases reset
  | partRestart strapHigh pfw => cases reset
  | _ => cases h

end Commands

/-- Settles O7: every command but a reset keeps what it does not name. -/
theorem settingsAndTimeKept : Obligations.SettingsAndTimeKept := by
  intro c s t reset next
  have answers : AnswersSteady (SparesPort c) (KeepsTime c) s (exec c s) := by
    cases row : requestOf c with
    | some r => exact request_steady row
    | none => exact event_steady row reset
  obtain ⟨u, outcome, kept⟩ := answers
  cases next.symm.trans outcome
  exact ⟨kept.settings, fun tick time => kept.stamp ⟨tick, time⟩⟩

end Sys2Proof.Machine

/-! PROOFS. The warning and the counters' words read, each as one equation; and the JRN requests over sound counters (R170,
R172, R176 to R179, R182). -/

namespace Sys2Proof.Machine

/-! ## The warning (R170) -/

/-- A judgement sets the latch as the free count says, and raises JOURNAL-HIGH when that sets it. -/
theorem State.judgeHigh_eq (s : State) : s.judgeHigh = State.flagged
    { s with journal := { s.journal with highNoted := decide (s.journal.free ≤ s.journal.warnLevel) } }
    (s.journal.highFlag 0) := by
  have free : s.journal.free - ((0 : Nat) : Int) = s.journal.free := Int.sub_zero _
  unfold State.judgeHigh Journal.highFlag
  rw [free]
  by_cases low : s.journal.free ≤ s.journal.warnLevel
  · rw [if_pos low, decide_eq_true low]
    cases noted : s.journal.highNoted with
    | true =>
      have latched : { s.journal with highNoted := true } = s.journal := by rw [← noted]
      rw [if_pos rfl, latched, if_neg (fun h => Bool.noConfusion h.2), State.flagged_zero]
    | false =>
      rw [if_neg Bool.false_ne_true, if_pos ⟨low, rfl⟩]
      rfl
  · rw [if_neg low, decide_eq_false low, if_neg (fun h => low h.1), State.flagged_zero]
    rfl

/-- A judgement reads the Journal alone, so it may come before or after the taking of a request. -/
theorem State.taken_judgeHigh (s : State) (g v tag : Byte) (params : List Byte) :
    (s.taken g v tag params).judgeHigh = s.judgeHigh.taken g v tag params := by
  rw [State.judgeHigh_eq, State.judgeHigh_eq]
  rfl

/-! ## The counters read without an error (R5, R182) -/

theorem Counter.corrected_of_clean {c : Counter} (sound : c.mem = GroupMem.clean) :
    (⟨c.value, c.mem.corrected⟩ : Counter) = c := by
  obtain ⟨value, mem⟩ := c
  cases sound
  rfl

theorem State.readNextSeq_sound {s : State} (sound : s.journal.nextSeq.mem = GroupMem.clean) :
    s.readNextSeq = (true, s) := by
  have found : s.journal.nextSeq.mem.found = 0 := by rw [sound]; rfl
  have usable : (!s.journal.nextSeq.mem.double) = true := by rw [sound]; rfl
  simp only [State.readNextSeq, found, usable, State.countCorrected_zero, State.updJournal,
    Counter.corrected_of_clean sound]

theorem State.readReleased_sound {s : State} (sound : s.journal.released.mem = GroupMem.clean) :
    s.readReleased = (true, s) := by
  have found : s.journal.released.mem.found = 0 := by rw [sound]; rfl
  have usable : (!s.journal.released.mem.double) = true := by rw [sound]; rfl
  simp only [State.readReleased, found, usable, State.countCorrected_zero, State.updJournal,
    Counter.corrected_of_clean sound]

theorem State.readCounters_sound {s : State} (next : s.journal.nextSeq.mem = GroupMem.clean)
    (released : s.journal.released.mem = GroupMem.clean) : s.readCounters = (true, s) := by
  simp only [State.readCounters, State.readNextSeq_sound next, State.readReleased_sound released, Bool.and_self]

/-! ## How a request reaches the Journal (R188) -/

section Requests

variable {s : State} {tag : Byte} {params : List Byte}

theorem State.Takes.exec_jrnStatus (h : s.Takes) (length : params.length = 2) : exec (.jrnStatus tag params) s
    = .next (State.settle ((s.taken 10 1 tag params).takeRequest (.status (number params 0 2)))) :=
  settled_congr (h.request 10 1 (.bytes 2) false tag params _ length nofun)

theorem State.Takes.exec_jrnRead (h : s.Takes) (length : params.length = 5) : exec (.jrnRead tag params) s
    = .next (State.settle ((s.taken 10 2 tag params).takeRequest (.read (number params 0 4) (number params 4 1)))) :=
  settled_congr (h.request 10 2 (.bytes 5) false tag params _ length nofun)

theorem State.Takes.exec_jrnRelease (h : s.Takes) (length : params.length = 4) : exec (.jrnRelease tag params) s
    = .next (State.settle ((s.taken 10 3 tag params).takeRequest (.release (number params 0 4)))) :=
  settled_congr (h.request 10 3 (.bytes 4) false tag params _ length nofun)

/-! ## Waiting (R172, R182) -/

/-- A request taken waits while a rebuild runs. -/
theorem State.takeRequest_rebuilding (rebuilding : s.journal.rebuilding = true) (v : Byte) (r : JournalRequest) :
    (s.taken 10 v tag params).takeRequest r
      = { s.taken 10 v tag params with journal := { s.journal with request := some r } } := by
  simp [State.takeRequest, State.taken, rebuilding, State.updJournal]

/-- A request that reads the flash, which every one but JRN.RELEASE does, waits for it too. -/
theorem State.takeRequest_busy (busy : s.journal.rebuilding = true ∨ s.journal.flash ≠ .idle) (v : Byte)
    {r : JournalRequest} (reads : ∀ n, r = .release n → False) : (s.taken 10 v tag params).takeRequest r
      = { s.taken 10 v tag params with journal := { s.journal with request := some r } } := by
  rcases busy with rebuilding | running
  · exact State.takeRequest_rebuilding rebuilding v r
  · cases r with
    | release n => exact (reads n rfl).elim
    | status level => simp [State.takeRequest, State.taken, running, State.updJournal]
    | read start most => simp [State.takeRequest, State.taken, running, State.updJournal]

theorem State.takeRequest_idle (built : s.journal.rebuilding = false) (idle : s.journal.flash = .idle) (v : Byte)
    (r : JournalRequest) :
    (s.taken 10 v tag params).takeRequest r = (s.taken 10 v tag params).serveRequest r := by
  cases r <;> simp [State.takeRequest, State.taken, built, idle]

theorem State.takeRequest_release (built : s.journal.rebuilding = false) (v : Byte) (n : Nat) :
    (s.taken 10 v tag params).takeRequest (.release n) = (s.taken 10 v tag params).serveRequest (.release n) := by
  simp [State.takeRequest, State.taken, built]

/-! ## Serving (R176 to R179) -/

/-- A level of 0 is left as it is. -/
theorem State.serveRequest_status_zero (next : s.journal.nextSeq.mem = GroupMem.clean)
    (released : s.journal.released.mem = GroupMem.clean) :
    (s.taken 10 1 tag params).serveRequest (.status 0)
      = s.replied 10 1 tag params .ok (s.journal.statusBytes false) := by
  simp only [State.serveRequest, State.readCounters_sound (s := s.taken 10 1 tag params) next released, if_pos]
  exact s.taken_answer ..

/-- Any other level is clamped and set, and the warning judged before the reply. -/
theorem State.serveRequest_status_level (next : s.journal.nextSeq.mem = GroupMem.clean)
    (released : s.journal.released.mem = GroupMem.clean) {level : Nat} (given : level ≠ 0) :
    (s.taken 10 1 tag params).serveRequest (.status level)
      = let t := (s.updJournal fun j => { j with warnLevel := warnTaken level }).judgeHigh
        t.replied 10 1 tag params .ok (t.journal.statusBytes (decide (warnTaken level ≠ level))) := by
  have clamped : (level != 0 && warnTaken level != level) = decide (warnTaken level ≠ level) := by
    rw [bne_iff_ne.mpr given, Bool.true_and, Bool.eq_iff_iff, bne_iff_ne, decide_eq_true_iff]
  have judged : ((s.taken 10 1 tag params).updJournal fun j => { j with warnLevel := warnTaken level }).judgeHigh
      = (s.updJournal fun j => { j with warnLevel := warnTaken level }).judgeHigh.taken 10 1 tag params :=
    State.taken_judgeHigh (s.updJournal fun j => { j with warnLevel := warnTaken level }) ..
  simp only [State.serveRequest, State.readCounters_sound (s := s.taken 10 1 tag params) next released, if_neg given,
    judged, clamped]
  exact State.taken_answer ..

theorem State.serveRequest_release_beyond (next : s.journal.nextSeq.mem = GroupMem.clean)
    (released : s.journal.released.mem = GroupMem.clean) {through : Nat} (beyond : s.journal.newest < through) :
    (s.taken 10 3 tag params).serveRequest (.release through) = s.replied 10 3 tag params .badValue [] := by
  have refused : (s.taken 10 3 tag params).journal.newest < through := beyond
  simp only [State.serveRequest, State.readCounters_sound (s := s.taken 10 3 tag params) next released, if_pos refused]
  exact s.taken_refuse ..

/-- What a release leaves: the value it takes, and every record as it was. -/
theorem Journal.release_reports (j : Journal) (through : Nat) :
    (j.release through).released.value = j.releaseTaken through
      ∧ (j.release through).oldestPending = j.oldestPending := by
  unfold Journal.release
  simp only
  split <;> exact ⟨rfl, rfl⟩

theorem State.serveRequest_release (next : s.journal.nextSeq.mem = GroupMem.clean)
    (released : s.journal.released.mem = GroupMem.clean) {through : Nat} (held : through ≤ s.journal.newest) :
    (s.taken 10 3 tag params).serveRequest (.release through)
      = (s.updJournal (·.release through)).replied 10 3 tag params .ok
          (be 4 (s.journal.releaseTaken through) ++ present 4 (s.journal.oldestPending.map (be 4))) := by
  have taken : ¬ (s.taken 10 3 tag params).journal.newest < through := Nat.not_lt.mpr held
  obtain ⟨value, oldest⟩ := s.journal.release_reports through
  simp only [State.serveRequest, State.readCounters_sound (s := s.taken 10 3 tag params) next released, if_neg taken]
  rw [← value, ← oldest]
  exact (s.updJournal (·.release through)).taken_answer ..

end Requests

/-- Settles O59: each request passes the Link Controller's checks, then waits or is served. -/
theorem journalRequests : Obligations.JournalRequests := by
  intro s tag params h level start most wait
  refine ⟨fun busy => ⟨fun length => ?_, fun length => ?_⟩, fun rebuilding length => ?_,
    fun built next released => ⟨fun idle => ⟨fun length => ?_, fun length zero => ?_, fun length given => ?_⟩,
      fun length => ⟨fun beyond => ?_, fun held => ?_⟩⟩⟩
  · exact (h.exec_jrnStatus length).trans (settled_congr (State.takeRequest_busy busy 1 nofun))
  · exact (h.exec_jrnRead length).trans (settled_congr (State.takeRequest_busy busy 2 nofun))
  · exact (h.exec_jrnRelease length).trans (settled_congr (State.takeRequest_rebuilding rebuilding 3 _))
  · rw [h.exec_jrnRead length, State.takeRequest_idle built idle]
    exact settled_congr (s.taken_answer ..)
  · rw [h.exec_jrnStatus length, State.takeRequest_idle built idle, show number params 0 2 = 0 from zero,
      State.serveRequest_status_zero next released]
  · rw [h.exec_jrnStatus length, State.takeRequest_idle built idle, State.serveRequest_status_level next released given]
    simp only [State.judgeHigh_eq]
    rfl
  · rw [h.exec_jrnRelease length, State.takeRequest_release built, State.serveRequest_release_beyond next released beyond]
  · rw [h.exec_jrnRelease length, State.takeRequest_release built, State.serveRequest_release next released held]
    rfl

end Sys2Proof.Machine

/-! PROOFS. The ends of the flash's appends, erases and counter rebuilds while the flash goes on (R164, R165, R169, R173,
R174, R177, R182). -/

namespace Sys2Proof.Machine

/-! ## The write queue and the promises (R168, R171) -/

/-- The head's leaving reads and changes the two parts of the queue alone. -/
theorem Journal.popHead_eq (j k : Journal) (start : k.startQueue = j.startQueue := by rfl)
    (run : k.runQueue = j.runQueue := by rfl) :
    k.popHead = { k with startQueue := j.popHead.startQueue, runQueue := j.popHead.runQueue } := by
  unfold Journal.popHead
  rw [start]
  cases j.startQueue with
  | nil => simp only [run]
  | cons e rest => simp only [← run]

/-- Whether the promise of an append is counted among the custody places outstanding (R168, R183). -/
def QueueEntry.placed : QueueEntry → Bool
  | .custody r => r.type != .zeroized
  | _ => false

theorem Journal.endPromise_eq (j : Journal) {e : QueueEntry} (append : ∀ t, e ≠ .settle t) :
    j.endPromise e = { j with
      promised := j.promised - 1, custodyOut := if e.placed then j.custodyOut - 1 else j.custodyOut } := by
  cases e with
  | issue part attached => rfl
  | custody r => by_cases z : r.type = .zeroized <;> simp [Journal.endPromise, QueueEntry.placed, z]
  | settle t => exact absurd rfl (append t)

/-- Reclaim is judged without the queue. -/
theorem Journal.judgeReclaim_queue (j : Journal) (start run : List QueueEntry) :
    ({ j with startQueue := start, runQueue := run } : Journal).judgeReclaim
      = { j.judgeReclaim with startQueue := start, runQueue := run } := by
  simp only [Journal.judgeReclaim, Journal.numbered, Journal.reclaimable, Journal.insertErase, Journal.newest]
  rfl

/-! ## Places used (R164, R165) -/

/-- A place used is the segment's next, and judges reclaim when it was the last. -/
theorem Journal.fillPlace_eq (j : Journal) (i : Fin 64) (bytes : List Byte) (marked : Bool) :
    j.fillPlace i bytes marked =
      let k : Journal := { j with segments := j.segments.put i ((j.segments.look i).filled bytes marked) }
      if (j.segments.look i).places.length + 1 < 128 then k else k.judgeReclaim := by
  unfold Journal.fillPlace Segment.filled
  by_cases room : (j.segments.look i).places.length + 1 < 128 <;>
    simp [Journal.updSegment, Segment.hasRoom, placesPerSegment, room, Bank.put_put]

/-- A place used changes the segments and the erase list alone. -/
theorem Journal.fillPlace_frame (j : Journal) (i : Fin 64) (bytes : List Byte) (marked : Bool) :
    ∃ segments list, j.fillPlace i bytes marked = { j with segments := segments, eraseList := list } := by
  rw [Journal.fillPlace_eq]
  dsimp only
  split <;> exact ⟨_, _, rfl⟩

/-- The Journal after an append has been programmed, its entry still at the head of the queue (R173, R177). -/
def Journal.programmed (j : Journal) (i : Fin 64) (seq : Nat) (bytes : List Byte) (custody marked : Bool) : Journal :=
  let k : Journal := { j with
    segments := j.segments.put i ((j.segments.look i).filled bytes marked)
    promised := j.promised - 1
    custodyOut := if custody then j.custodyOut - 1 else j.custodyOut
    nextSeq := ⟨seq + 1, GroupMem.clean⟩
    headFailed := false
    flash := .idle }
  if (j.segments.look i).places.length + 1 < 128 then k else k.judgeReclaim

theorem Journal.programmed_queue (j : Journal) (i : Fin 64) (seq : Nat) (bytes : List Byte) (custody marked : Bool) :
    (j.programmed i seq bytes custody marked).startQueue = j.startQueue
      ∧ (j.programmed i seq bytes custody marked).runQueue = j.runQueue := by
  unfold Journal.programmed
  dsimp only
  split <;> exact ⟨rfl, rfl⟩

/-- The entry gone, the append is done. -/
theorem Journal.programmed_popHead (j : Journal) (i : Fin 64) (seq : Nat) (bytes : List Byte) (custody marked : Bool) :
    (j.programmed i seq bytes custody marked).popHead = j.appended i seq bytes custody marked := by
  have popped : j.popHead = { j with startQueue := j.popHead.startQueue, runQueue := j.popHead.runQueue } :=
    Journal.popHead_eq j j
  unfold Journal.programmed Journal.appended
  by_cases room : (j.segments.look i).places.length + 1 < 128
  · simp only [room, if_true]
    refine (Journal.popHead_eq j _).trans ?_
    rw [popped]
  · simp only [room, if_false]
    refine (Journal.popHead_eq j _).trans ?_
    rw [popped]
    exact (Journal.judgeReclaim_queue _ _ _).symm

/-- The Journal once an append has verified, its place not yet counted as used: the promise ended, next sequence risen,
the flash idle (R167, R173). -/
def Journal.verified (j : Journal) (e : QueueEntry) (seq : Nat) : Journal :=
  { j.endPromise e with headFailed := false, flash := .idle, nextSeq := ⟨seq + 1, GroupMem.clean⟩ }

theorem Journal.fillPlace_programmed (j : Journal) {e : QueueEntry} (append : ∀ t, e ≠ .settle t) (i : Fin 64) (seq : Nat)
    (bytes : List Byte) (marked : Bool) :
    (j.verified e seq).fillPlace i bytes marked = j.programmed i seq bytes e.placed marked := by
  rw [Journal.verified, Journal.endPromise_eq j append, Journal.fillPlace_eq]
  rfl

/-- The entry kept for the settlement attached to it, which the flash programs next. -/
theorem Journal.programmed_attached (j : Journal) (i : Fin 64) (seq : Nat) (bytes : List Byte) (custody marked : Bool)
    (next : Flash) : { j.programmed i seq bytes custody marked with flash := next }
      = { j.appended i seq bytes custody marked with startQueue := j.startQueue, runQueue := j.runQueue, flash := next } := by
  obtain ⟨start, run⟩ := j.programmed_queue i seq bytes custody marked
  rw [← Journal.programmed_popHead, Journal.popHead_eq _ (j.programmed i seq bytes custody marked), ← start, ← run]

/-! ## The place of a program (R164, R165) -/

section Going

variable {s : State}

theorem State.flashStops_eq_false_iff :
    s.flashStops = false ↔ s.journal.state ≠ .stopped ∧ s.link.restart ≠ .due := by
  simp [State.flashStops]

theorem State.usePlace_flashStops (s : State) (i : Fin 64) (bytes : List Byte) (fullOk : Bool) :
    (s.usePlace i bytes fullOk).flashStops = s.flashStops := by
  obtain ⟨_, _, used⟩ := s.journal.fillPlace_frame i bytes (fullOk && !s.flashStops)
  rw [State.usePlace, State.updJournal, used]
  rfl

/-- The ACTIVE segment is found by the states of the segments alone. -/
theorem Journal.active?_congr {j k : Journal}
    (same : ∀ i, (k.segments.look i).state = (j.segments.look i).state) : k.active? = j.active? := by
  have found (j : Journal) :
      j.active? = (List.finRange 64).find? (fun i => (j.segments.look i).state == .active) := by
    simp [Journal.active?, Journal.numbered, List.find?_map, Function.comp_def]
  rw [found, found]
  simp only [same]

theorem State.findPlace_active {i : Fin 64} (active : s.journal.active? = some i) (seq fuel : Nat)
    (opens : List ReadBack) : s.findPlace seq (fuel + 1) opens = (s, some i, opens) := by
  simp only [State.findPlace, active]

theorem State.findPlace_opens {i : Fin 64} (closed : s.journal.active? = none) (erased : s.journal.nextErased? = some i)
    (seq fuel : Nat) : s.findPlace seq (fuel + 1) [] = (s.segmentOpened i seq, some i, []) := by
  simp only [State.findPlace, closed, erased, List.headD_nil, List.drop_nil]
  rfl

/-! ## An append that verifies (R167, R173) -/

theorem State.appendDone_eq_appended (going : s.flashStops = false) {e : QueueEntry} (append : ∀ t, e ≠ .settle t)
    (i : Fin 64) (seq : Nat) (bytes : List Byte) (fullOk : Bool) :
    s.appendDone e seq i (s.journal.segments.look i).places.length bytes fullOk = s.appended e i seq bytes fullOk := by
  have goes := State.flashStops_eq_false_iff.mp going
  have working : (s.journal.endPromise e).state ≠ .stopped := by
    rw [Journal.endPromise_eq _ append]; exact goes.1
  have still : (s.updJournal (·.verified e seq)).flashStops = false :=
    State.flashStops_eq_false_iff.mpr ⟨working, goes.2⟩
  have used : (s.updJournal (·.verified e seq)).usePlace i bytes fullOk
      = { s with journal := s.journal.programmed i seq bytes e.placed fullOk } := by
    rw [← Journal.fillPlace_programmed s.journal append, State.usePlace, still, Bool.not_false, Bool.and_true]
    rfl
  refine (if_neg working).trans ?_
  cases e with
  | settle t => exact absurd rfl (append t)
  | custody r =>
    show ((s.updJournal (·.verified _ seq)).usePlace i bytes fullOk).updJournal Journal.popHead = _
    rw [used, State.updJournal, Journal.programmed_popHead]
    rfl
  | issue part attached =>
    cases attached with
    | none =>
      show State.serveWaiters (State.tell (State.updSession
        (((s.updJournal (·.verified _ seq)).usePlace i bytes fullOk).updJournal Journal.popHead) part.port _) _) = _
      rw [used, State.updJournal, Journal.programmed_popHead]
      rfl
    | some t =>
      have goesOn : ¬ ((s.updJournal (·.verified (.issue part (some t)) seq)).usePlace i bytes fullOk).flashStops = true := by
        rw [State.usePlace_flashStops, still]; exact Bool.false_ne_true
      refine (if_neg goesOn).trans ?_
      show ((s.updJournal (·.verified _ seq)).usePlace i bytes fullOk).updJournal _ = _
      rw [used]
      exact congrArg (fun j => { s with journal := j }) (Journal.programmed_attached ..)

/-- The end of an append whose first attempt verifies, in the place found for it. -/
theorem State.appendEnd_verified {t : State} {i : Fin 64} {seq : Nat} (found : s.findPlace seq 65 [] = (t, some i, []))
    (e : QueueEntry) (bytes : List Byte) (second : ReadBack) (fullOk : Bool) :
    s.appendEnd e seq bytes ⟨[], .ok, second, fullOk⟩
      = t.appendDone e seq i (t.journal.segments.look i).places.length bytes fullOk := by
  unfold State.appendEnd State.lastAttempt
  cases s.journal.headFailed <;> simp [found]

/-! ## Places made void (R165, R174) -/

theorem State.voidPlace_eq (going : s.flashStops = false) (i : Fin 64) (left : List Byte) (fullOk : Bool) :
    s.voidPlace i left fullOk = State.judgeHigh ((s.usePlace i (overwrite left 0 [0]) fullOk).updJournal fun j =>
      { j with programFailures := saturate 65535 (j.programFailures + 1) }) :=
  if_neg (by rw [going]; exact Bool.false_ne_true)

/-- A void place touches the segments, the erase list, the warning and the count of failures. -/
theorem State.voidPlace_frame (going : s.flashStops = false) (i : Fin 64) (left : List Byte) (fullOk : Bool) :
    ∃ segments list noted flags, s.voidPlace i left fullOk = { s with
      link := { s.link with pending := flags }
      journal := { s.journal with
        segments := segments, eraseList := list, highNoted := noted
        programFailures := min 65535 (s.journal.programFailures + 1) } } := by
  obtain ⟨_, _, used⟩ := s.journal.fillPlace_frame i (overwrite left 0 [0]) (fullOk && !s.flashStops)
  rw [State.voidPlace_eq going, State.judgeHigh_eq, State.usePlace, State.updJournal, State.updJournal, used]
  exact ⟨_, _, _, _, rfl⟩

/-- A void that is not the segment's last place leaves the segment as it was but for that place. -/
theorem State.voidPlace_eq_placeVoided (going : s.flashStops = false) {i : Fin 64}
    (room : (s.journal.segments.look i).places.length + 1 < 128) (left : List Byte) (fullOk : Bool) :
    s.voidPlace i left fullOk = s.placeVoided i left := by
  rw [State.voidPlace_eq going, State.judgeHigh_eq, State.usePlace, State.updJournal, State.updJournal,
    Journal.fillPlace_eq]
  simp only [room, if_true, Segment.filled]
  rfl

theorem State.placeVoided_active? (s : State) (i : Fin 64) (left : List Byte) :
    (s.placeVoided i left).journal.active? = s.journal.active? := by
  refine Journal.active?_congr fun k => ?_
  show ((s.journal.segments.put i _).look k).state = _
  rw [Bank.look_put]
  split
  · rename_i this; rw [this]
  · rfl

theorem State.placeVoided_flashStops (s : State) (i : Fin 64) (left : List Byte) :
    (s.placeVoided i left).flashStops = s.flashStops := rfl

/-! ## An append dropped in FAULT (R150, R169, R174) -/

/-- Each waiter is told of FAULT, in the order of the list, and leaves it. -/
theorem State.endWaiters_eq (s : State) : s.endWaiters = { s with
    agenda := s.agenda ++ s.journal.waiters.map Task.journalFault, journal := { s.journal with waiters := [] } } := by
  have told (ports : List PortNo) (t : State) : ports.foldl (fun s p => s.tell (.journalFault p)) t
      = { t with agenda := t.agenda ++ ports.map Task.journalFault } := by
    induction ports generalizing t with
    | nil => simp
    | cons p ports ih =>
      rw [List.foldl_cons, ih]
      simp [State.tell]
  rw [State.endWaiters, told]
  rfl

/-- A report of a drop reads and changes the ports alone. -/
theorem State.reportDropped_eq (s t : State) (e : QueueEntry) (ports : t.ports = s.ports) :
    t.reportDropped e = { t with ports := (s.reportDropped e).ports } := by
  unfold State.reportDropped
  split
  · simp only [State.updSession, State.updPort, State.setPort, State.port, ports]
  · rw [← ports]

/-- What a drop does: the promise ended, the entry gone, FAULT with its flag, the session and every waiter told. -/
theorem State.dropHead_eq (s t : State) {e : QueueEntry} (append : ∀ x, e ≠ .settle x)
    (start : t.journal.startQueue = s.journal.startQueue) (run : t.journal.runQueue = s.journal.runQueue)
    (ports : t.ports = s.ports) : ∃ custodyOut noted flags, t.dropHead e = State.raiseGlobal { t with
      link := { t.link with pending := flags }
      agenda := t.agenda ++ t.journal.waiters.map Task.journalFault
      ports := (s.reportDropped e).ports
      journal := { t.journal with
        startQueue := s.journal.popHead.startQueue, runQueue := s.journal.popHead.runQueue
        promised := t.journal.promised - 1, custodyOut := custodyOut, waiters := [], state := .fault
        headFailed := false, highNoted := noted } } .journalFault := by
  have ended := Journal.endPromise_eq t.journal append
  have popped := Journal.popHead_eq s.journal (t.journal.endPromise e) (by rw [ended, ← start]) (by rw [ended, ← run])
  rw [ended] at popped
  unfold State.dropHead
  rw [State.endWaiters_eq, State.judgeHigh_eq, State.updJournal, ended, popped, State.reportDropped_eq s]
  · exact ⟨_, _, _, rfl⟩
  · exact ports

/-! ## The second attempt (R174) -/

variable {i : Fin 64} {e : QueueEntry}

/-- A first attempt that fails leaves its void place, and the second follows. -/
theorem State.appendEnd_fails (going : s.flashStops = false) (active : s.journal.active? = some i)
    (fresh : s.journal.headFailed = false) (room : (s.journal.segments.look i).places.length + 1 < 128)
    (e : QueueEntry) (seq : Nat) (bytes left : List Byte) (second : ReadBack) (fullOk : Bool) :
    s.appendEnd e seq bytes ⟨[], .fails left, second, fullOk⟩
      = (s.placeVoided i left).lastAttempt e seq bytes [] second fullOk := by
  unfold State.appendEnd
  simp only [fresh, Bool.false_eq_true, if_false, State.findPlace_active active, State.voidPlace_eq_placeVoided going room,
    State.placeVoided_flashStops, going]

theorem State.lastAttempt_verified (active : s.journal.active? = some i) (e : QueueEntry) (seq : Nat) (bytes : List Byte)
    (fullOk : Bool) : s.lastAttempt e seq bytes [] .ok fullOk
      = s.appendDone e seq i (s.journal.segments.look i).places.length bytes fullOk := by
  simp only [State.lastAttempt, State.findPlace_active active]

/-- A second failure leaves its void place too and drops the append: FAULT, every waiter told, next sequence kept. -/
theorem State.lastAttempt_fails (going : s.flashStops = false) (active : s.journal.active? = some i)
    (append : ∀ t, e ≠ .settle t) (seq : Nat) (bytes left : List Byte) (fullOk : Bool) :
    ∃ segments list custodyOut noted flags, s.lastAttempt e seq bytes [] (.fails left) fullOk
      = State.raiseGlobal { s with
        link := { s.link with pending := flags }
        agenda := s.agenda ++ s.journal.waiters.map Task.journalFault
        ports := (s.reportDropped e).ports
        journal := { s.journal with
          segments := segments, eraseList := list
          programFailures := min 65535 (s.journal.programFailures + 1)
          startQueue := s.journal.popHead.startQueue, runQueue := s.journal.popHead.runQueue
          promised := s.journal.promised - 1, custodyOut := custodyOut, waiters := [], state := .fault, flash := .idle
          headFailed := false, highNoted := noted } } .journalFault := by
  obtain ⟨segments, list, noted, flags, void⟩ := State.voidPlace_frame going i left fullOk
  have stops : (s.voidPlace i left fullOk).flashStops = false := by rw [void]; exact going
  have attempt : s.lastAttempt e seq bytes [] (.fails left) fullOk
      = State.dropHead ((s.voidPlace i left fullOk).updJournal fun j => { j with flash := .idle }) e := by
    simp only [State.lastAttempt, State.findPlace_active active]
    exact if_neg (fun stopped => Bool.false_ne_true (stops.symm.trans stopped))
  obtain ⟨custodyOut, noted, flags, dropped⟩ :=
    State.dropHead_eq s ((s.voidPlace i left fullOk).updJournal fun j => { j with flash := .idle }) append
      (by rw [void]; rfl) (by rw [void]; rfl) (by rw [void]; rfl)
  rw [attempt, dropped, void]
  exact ⟨_, _, _, _, _, rfl⟩

/-! ## The end of a rebuild (R182) -/

/-- Released-through is rebuilt just below the oldest held record, or below next sequence when none is held. -/
theorem Journal.rebuilt_released (j : Journal) :
    (∀ r, j.heldRecords.head? = some r → j.rebuilt.released.value = r.seq - 1)
      ∧ (j.heldRecords = [] → j.rebuilt.released.value = j.rebuilt.nextSeq.value - 1) := by
  have released : j.rebuilt.released.value
      = (j.heldRecords.head?.map (·.seq)).getD j.rebuilt.nextSeq.value - 1 := rfl
  constructor
  · intro r oldest
    rw [released, oldest]
    rfl
  · intro empty
    rw [released, empty]
    rfl

end Going

/-! ## FlashEnds -/

section Ends

variable {s : State}

theorem State.exec_flashProgramEnd {seq : Nat} {bytes : List Byte} {e : QueueEntry}
    (flash : s.journal.flash = .programming (.append seq bytes)) (head : s.journal.head? = some e) (r : AppendResult) :
    exec (.flashProgramEnd r) s = .next (State.settle (s.appendEnd e seq bytes r)) := by
  show execFlashProgramEnd r s = _
  simp only [execFlashProgramEnd, flash, head]

theorem State.exec_eraseEnd {i : Fin 64} (flash : s.journal.flash = .erasing i) (r : EraseResult) :
    exec (.eraseEnd r) s = .next (State.settle (s.eraseDone i r)) := by
  show execEraseEnd r s = _
  simp only [execEraseEnd, flash]

theorem State.exec_counterRebuildEnd (rebuilding : s.journal.rebuilding = true) (idle : s.journal.flash = .idle)
    (up : s.link.mode ≠ .shutdown) : exec .counterRebuildEnd s
      = .next (State.settle (s.updJournal fun j => { j.rebuilt.judgeReclaim with rebuilding := false })) := by
  show execCounterRebuildEnd s = _
  have awake : s.isShutdown = false := by simp [State.isShutdown, up]
  simp only [execCounterRebuildEnd, rebuilding, idle, awake]
  rfl

/-- A good erase frees the segment, judges the warning and serves the waiters. -/
theorem State.eraseDone_erased (s : State) (i : Fin 64) : s.eraseDone i .erased =
    let j : Journal := { s.journal with segments := s.journal.segments.put i Segment.blank, flash := .idle }
    State.serveWaiters (State.flagged
      { s with journal := { j with highNoted := decide (j.free ≤ j.warnLevel) } } (j.highFlag 0)) := by
  simp only [State.eraseDone, State.judgeHigh_eq]
  rfl

theorem State.eraseDone_notErased (going : s.flashStops = false) (i : Fin 64) (header : List Byte) :
    s.eraseDone i (.notErased header) = { s with journal := { s.journal with
      segments := s.journal.segments.put i { s.journal.segments.look i with header := withBadMark header, state := .bad }
      flash := .idle, eraseFailures := min 65535 (s.journal.eraseFailures + 1) } } :=
  if_neg fun stops => Bool.false_ne_true (going.symm.trans stops)

/-- What an append leaves that fails in its second attempt as in its first (R150, R169, R174). -/
theorem State.failedTwice {i : Fin 64} {e : QueueEntry} (going : s.flashStops = false)
    (active : s.journal.active? = some i) (append : ∀ t, e ≠ .settle t) (left : List Byte) (seq : Nat)
    (bytes left' : List Byte) (fullOk : Bool) :
    let u := (s.placeVoided i left).lastAttempt e seq bytes [] (.fails left') fullOk
    u.journal.state = .fault ∧ u.journal.flash = .idle ∧ u.flagPending (.global .journalFault) = true
      ∧ u.journal.nextSeq = s.journal.nextSeq ∧ u.journal.promised = s.journal.promised - 1
      ∧ u.journal.startQueue = s.journal.popHead.startQueue ∧ u.journal.runQueue = s.journal.popHead.runQueue
      ∧ u.journal.programFailures = min 65535 (min 65535 (s.journal.programFailures + 1) + 1)
      ∧ u.journal.waiters = [] ∧ u.agenda = s.agenda ++ s.journal.waiters.map Task.journalFault
      ∧ ∀ part x, e = .issue part none → s.session? part.port = some x →
        u.session? part.port = some { x with unprogrammed := true } := by
  obtain ⟨segments, list, custodyOut, noted, flags, failed⟩ := State.lastAttempt_fails
    ((s.placeVoided_flashStops i left).trans going) ((s.placeVoided_active? i left).trans active) append seq bytes left'
    fullOk
  have popped := Journal.popHead_eq s.journal (s.placeVoided i left).journal
  simp only [failed]
  have start : (s.placeVoided i left).journal.popHead.startQueue = s.journal.popHead.startQueue := by rw [popped]
  have run : (s.placeVoided i left).journal.popHead.runQueue = s.journal.popHead.runQueue := by rw [popped]
  refine ⟨rfl, rfl, LinkController.raise_pends _ _, rfl, rfl, start, run, rfl, rfl, rfl, ?_⟩
  rintro part x rfl present
  show (((s.placeVoided i left).updSession part.port _).port part.port).session = _
  rw [State.updSession, State.port_updPort_self]
  exact congrArg (Option.map _) present

end Ends

/-- Settles O60: each end by the lemma about its outcome; after a void the ACTIVE segment is still the one with room. -/
theorem flashEnds : Obligations.FlashEnds := by
  intro s up working due
  have going : s.flashStops = false := State.flashStops_eq_false_iff.mpr ⟨working, due⟩
  refine ⟨?_, fun i flash => ⟨?_, fun header => ?_⟩, fun rebuilding idle => ?_⟩
  · intro seq bytes e i fullOk second flash head append ended
    have ends (first second : ReadBack) :
        ended first second = .next (State.settle (s.appendEnd e seq bytes ⟨[], first, second, fullOk⟩)) :=
      State.exec_flashProgramEnd flash head _
    refine ⟨fun closed erased => ?_, fun active => ⟨?_, fun fresh room left => ⟨?_, fun left' => ?_⟩⟩⟩
    · rw [ends, State.appendEnd_verified (State.findPlace_opens closed erased seq 64),
        State.appendDone_eq_appended (s := s.segmentOpened i seq) going append]
    · rw [ends, State.appendEnd_verified (State.findPlace_active active seq 64 []),
        State.appendDone_eq_appended going append]
    · rw [ends, State.appendEnd_fails going active fresh room,
        State.lastAttempt_verified ((s.placeVoided_active? i left).trans active),
        State.appendDone_eq_appended ((s.placeVoided_flashStops i left).trans going) append]
    · exact ⟨_, by rw [ends, State.appendEnd_fails going active fresh room],
        State.failedTwice going active append left seq bytes left' fullOk⟩
  · rw [State.exec_eraseEnd flash, State.eraseDone_erased]
  · rw [State.exec_eraseEnd flash, State.eraseDone_notErased going]
  · obtain ⟨oldest, empty⟩ := s.journal.rebuilt_released
    exact ⟨_, State.exec_counterRebuildEnd rebuilding idle up, rfl, rfl, rfl, oldest, empty⟩

end Sys2Proof.Machine

/-! PROOFS. What can become of a request in every mode, and the requests whose owner does no more than the part's own
operations (R185, R186, R188, R199). -/

namespace Sys2Proof.Machine

/-! ## What the Link Controller's checks can do (R185, R186, R188) -/

section Checks

variable {s : State} {g v tag : Byte} {params : List Byte}

/-- A good frame is passed over, is an overrun frame, or is taken. -/
theorem State.takeFrame_cases (k : State → State) : s.takeFrame g v tag params k = s
    ∨ s.takeFrame g v tag params k = s.countOverrun
    ∨ s.takeFrame g v tag params k = k (s.taken g v tag params) := by
  unfold State.takeFrame
  split
  · split
    · exact .inr (.inl rfl)
    · exact .inr (.inr rfl)
  · exact .inl rfl

/-- A request is passed over, is an overrun frame, is refused, or goes to its owner, which one that is not served in every
mode does in READY alone. -/
theorem State.request_cases (shape : Shape) (e : Bool) (owner : State → State) :
    s.request g v shape e tag params owner = s
    ∨ s.request g v shape e tag params owner = s.countOverrun
    ∨ (∃ st, s.request g v shape e tag params owner = s.replied g v tag params st [])
    ∨ (e = false → s.link.mode = .ready) ∧ s.request g v shape e tag params owner = owner (s.taken g v tag params) := by
  have refused (st : Status) {t : State} (h : t = (s.taken g v tag params).refuse st) :
      ∃ st, t = s.replied g v tag params st [] := ⟨st, h.trans (s.taken_refuse ..)⟩
  unfold State.request
  rcases s.takeFrame_cases (g := g) (v := v) (tag := tag) (params := params) _ with passed | overrun | taken
  · exact .inl passed
  · exact .inr (.inl overrun)
  · rw [taken]
    refine .inr (.inr ?_)
    split
    · exact .inl (refused _ rfl)
    · rename_i started
      split
      · exact .inl (refused _ rfl)
      · rename_i up
        split
        · exact .inl (refused _ rfl)
        · split
          · exact .inl (refused _ rfl)
          · refine .inr ⟨fun h => ?_, rfl⟩
            subst h
            change ¬ (decide (s.link.mode = .starting) && true) = true at started
            change ¬ (decide (s.link.mode = .shutdown) && true) = true at up
            cases mode : s.link.mode <;> simp_all

end Checks

/-! ## The requests whose owner does no more than the part's own operations (R188, R199) -/

/-- The command `c`, the request of the row `r`, is handed to `owner` once it passes the checks, its reactions following
or not; and what the owner makes of any state follows from it. -/
structure OwnedBy (c : Instr) (r : RequestRow) (owner : State → State) : Prop where
  outcome : ∀ s, exec c s = .next (s.request r.group r.verb r.shape r.everyMode r.tag r.params owner)
    ∨ exec c s = .next (s.request r.group r.verb r.shape r.everyMode r.tag r.params owner).settle
  follows : ∀ s, Follows s (owner s)

/-- The command writes a register of the Link Controller or a port's settings at its host's word: DEV.TIME, DEV.RESTART,
EVT.READ, EVT.MASK and PORT.SET. -/
def writesRegister : Instr → Bool
  | .devTime _ _ | .devRestart _ _ | .evtRead _ _ | .evtMask _ _ | .portSet _ _ => true
  | _ => false

theorem ownedBy_of_requestOf {c : Instr} {r : RequestRow} (row : requestOf c = some r) (plain : writesRegister c = false) :
    ∃ owner, OwnedBy c r owner := by
  cases c with
  | devTime | devRestart | evtRead | evtMask | portSet => cases plain
  | devIdentify tag params => cases row; exact ⟨_, fun _ => .inl rfl, fun s => (Follows.refl s).answer ..⟩
  | devStatus tag params => cases row; exact ⟨_, fun _ => .inl rfl, fun s => (Follows.refl s).answer ..⟩
  | slotList tag params =>
    cases row
    exact ⟨_, fun _ => .inr rfl, fun s => iteInduction (fun _ => (Follows.refl s).refuse _)
      fun _ => (Follows.refl s).listSlots ..⟩
  | slotInfo tag params =>
    cases row
    exact ⟨_, fun _ => .inr rfl, fun s => (Follows.refl s).withSlot _ _ fun i => ((Follows.refl s).readSlot i _).answer ..⟩
  | slotVerify tag params =>
    cases row
    exact ⟨_, fun _ => .inr rfl, fun s => (Follows.refl s).withSlot _ _ fun i => (Follows.refl s).slotVerify i⟩
  | slotSuspend tag params =>
    cases row
    exact ⟨_, fun _ => .inr rfl, fun s => (Follows.refl s).withSlot _ _ fun i => (Follows.refl s).slotSuspend i⟩
  | slotRange tag params =>
    cases row
    exact ⟨_, fun _ => .inr rfl, fun s => (Follows.refl s).withSlot _ _ fun i => (Follows.refl s).slotRange _ i⟩
  | slotResume tag params =>
    cases row
    exact ⟨_, fun _ => .inr rfl, fun s => (Follows.refl s).withSlot _ _ fun i => (Follows.refl s).slotResume i⟩
  | slotErase tag params =>
    cases row
    exact ⟨_, fun _ => .inr rfl, fun s => (Follows.refl s).withSlot _ _ fun i => (Follows.refl s).slotErase i⟩
  | custOpen tag params =>
    cases row
    refine ⟨_, fun _ => .inr rfl, fun s => ?_⟩
    split
    · exact (Follows.refl s).refuse _
    · exact (Follows.refl s).custOpen _
  | custCancel tag params =>
    cases row
    refine ⟨_, fun _ => .inr rfl, fun s => ?_⟩
    split
    · exact (Follows.refl s).refuse _
    · exact ((Follows.refl s).failAssembly _).answer ..
  | custClose tag params =>
    cases row
    exact ⟨_, fun _ => .inl rfl, fun s => (((Follows.refl s).closeWindow true).barWindow true).answer ..⟩
  | custStatus tag params => cases row; exact ⟨_, fun _ => .inl rfl, fun s => (Follows.refl s).answer ..⟩
  | engHold tag params =>
    cases row
    exact ⟨_, fun _ => .inl rfl, fun s => ((Follows.refl s).updEngine _ fun k => ⟨k.completed, k.kept⟩).answer ..⟩
  | engResume tag params =>
    cases row
    exact ⟨_, fun _ => .inr rfl, fun s => ((Follows.refl s).updEngine _ fun k => ⟨k.completed, k.kept⟩).answer ..⟩
  | engStatus tag params => cases row; exact ⟨_, fun _ => .inl rfl, fun s => (Follows.refl s).answer ..⟩
  | profWrite tag params =>
    cases row
    exact ⟨_, fun _ => .inr rfl, fun s => (Follows.refl s).withProfile _ _ fun n => (Follows.refl s).profWrite n _⟩
  | profDelete tag params =>
    cases row
    exact ⟨_, fun _ => .inr rfl, fun s => (Follows.refl s).withProfile _ _ fun n => (Follows.refl s).profDelete n⟩
  | profRead tag params =>
    cases row
    exact ⟨_, fun _ => .inl rfl, fun s => (Follows.refl s).withProfile _ _ fun n =>
      ((Follows.refl s).readProfile n).answer ..⟩
  | matchRead tag params =>
    cases row
    exact ⟨_, fun _ => .inl rfl, fun s => (Follows.refl s).withEntry _ _ fun n =>
      ((Follows.refl s).readEntry n true).answer ..⟩
  | matchWrite tag params =>
    cases row
    exact ⟨_, fun _ => .inr rfl, fun s => (Follows.refl s).withEntry _ _ fun n => (Follows.refl s).matchWrite n _⟩
  | matchEnable tag params =>
    cases row
    exact ⟨_, fun _ => .inr rfl, fun s => (Follows.refl s).withEntry _ _ fun n => (Follows.refl s).matchEnable n⟩
  | matchDisable tag params =>
    cases row
    exact ⟨_, fun _ => .inr rfl, fun s => (Follows.refl s).withEntry _ _ fun n => (Follows.refl s).matchDisable n⟩
  | ordPlace tag params => cases row; exact ⟨_, fun _ => .inr rfl, fun s => (Follows.refl s).placeNumbered _⟩
  | ordAmend tag params =>
    cases row
    exact ⟨_, fun _ => .inr rfl, fun s => (Follows.refl s).withOrder _ _ fun o _ => (Follows.refl s).ordAmend _ o⟩
  | ordHold tag params =>
    cases row
    exact ⟨_, fun _ => .inl rfl, fun s => (Follows.refl s).withOrder _ _ fun o _ => (Follows.refl s).ordHold o⟩
  | ordRelease tag params =>
    cases row
    exact ⟨_, fun _ => .inr rfl, fun s => (Follows.refl s).withOrder _ _ fun o _ => (Follows.refl s).ordRelease o⟩
  | ordAbort tag params =>
    cases row
    exact ⟨_, fun _ => .inr rfl, fun s => (Follows.refl s).withOrder _ _ fun o _ => (Follows.refl s).ordAbort o⟩
  | ordRetire tag params =>
    cases row
    exact ⟨_, fun _ => .inl rfl, fun s => (Follows.refl s).withOrder _ _ fun o _ => (Follows.refl s).ordRetire o⟩
  | ordStatus tag params =>
    cases row
    exact ⟨_, fun _ => .inl rfl, fun s => (Follows.refl s).withOrder _ _ fun o _ => (Follows.refl s).answer ..⟩
  | ordList tag params => cases row; exact ⟨_, fun _ => .inl rfl, fun s => (Follows.refl s).answer ..⟩
  | portPause tag params =>
    cases row
    exact ⟨_, fun _ => .inr rfl, fun s => (Follows.refl s).withPort _ _ fun p => (Follows.refl s).portPause p⟩
  | portResume tag params =>
    cases row
    exact ⟨_, fun _ => .inl rfl, fun s => (Follows.refl s).withPort _ _ fun p => (Follows.refl s).portResume p⟩
  | portReadmit tag params =>
    cases row
    exact ⟨_, fun _ => .inl rfl, fun s => (Follows.refl s).withPort _ _ fun p => (Follows.refl s).portReadmit p⟩
  | portReset tag params =>
    cases row
    exact ⟨_, fun _ => .inr rfl, fun s => (Follows.refl s).withPort _ _ fun p => (Follows.refl s).portReset p⟩
  | portStatus tag params =>
    cases row
    exact ⟨_, fun _ => .inl rfl, fun s => (Follows.refl s).withPort _ _ fun p => (Follows.refl s).answer ..⟩
  | jrnStatus tag params => cases row; exact ⟨_, fun _ => .inr rfl, fun s => (Follows.refl s).takeRequest _⟩
  | jrnRead tag params => cases row; exact ⟨_, fun _ => .inr rfl, fun s => (Follows.refl s).takeRequest _⟩
  | jrnRelease tag params => cases row; exact ⟨_, fun _ => .inr rfl, fun s => (Follows.refl s).takeRequest _⟩
  | _ => cases row

end Sys2Proof.Machine

/-! PROOFS. Which commands leave the mode, a restart asked for and the pending flags as they are: SHUTDOWN lasts, and a
flag stays pending (R190, R194, R195). -/

namespace Sys2Proof.Machine

/-! ## Guards of the lines, and the Journal's last step (R27, R123, R125, R141, R171) -/

section Guards

variable {s : State} {P : State → Prop}

theorem State.onLine_rule {k : State → State} (stands : P s) (goes : P (k s)) : P (s.onLine k) :=
  iteInduction (fun _ => stands) fun _ => goes

theorem State.received_rule {p : PortNo} {chars : List Byte} {k : Judged → State → State} (stands : P s)
    (active : P (s.activity p)) (goes : ∀ j, P (k j s)) : P (s.received p chars k) :=
  State.onLine_rule stands (iteInduction (fun _ => active) fun _ => iteInduction (fun _ => stands) fun _ => goes _)

theorem State.takeAnswer_rule {p : PortNo} {chars : List Byte} {type : Byte}
    {k : Session → FrameType → BenchFrame → State → State} (stands : P s) (active : P (s.activity p))
    (goes : ∀ x a f, P (k x a f ((s.updPort p Port.scoreGood).answerTaken p))) : P (s.takeAnswer p chars type k) := by
  refine State.received_rule stands active fun j => ?_
  split
  · split
    · exact iteInduction (fun _ => goes ..) fun _ => stands
    · exact stands
  · exact stands

theorem State.padHeard_rule {l : Line} {k : State → State} (stands : P s) (busy : P (s.raiseGlobal .padError))
    (goes : P (k s)) : P (s.padHeard l k) :=
  iteInduction (fun _ => stands) fun _ => iteInduction (fun _ => stands) fun _ => iteInduction (fun _ => busy)
    fun _ => goes

theorem State.frameBegun_rule {k : State → State} (stands : P s) (overrun : P s.countOverrun) (goes : P (k s)) :
    P (s.frameBegun k) := by
  unfold State.frameBegun
  split
  · split
    · exact overrun
    · exact goes
  · exact stands

end Guards

@[simp] theorem State.activity_link (s : State) (p : PortNo) : (s.activity p).link = s.link := by
  unfold State.activity
  split <;> rfl

theorem Follows.badPadFrame (s : State) (l : Line) : Follows s (s.badPadFrame l) :=
  ((Follows.refl s).sendResult ..).raiseGlobal _

theorem Follows.settlementTold (s : State) (e : SettlementEntry) : Follows s (s.settlementTold e) := by
  unfold State.settlementTold
  extract_lets told
  have reported : Follows s told := by
    simp only [told]
    split
    · exact (Follows.refl s).settlementReported _
    · exact .refl s
  split
  · exact reported.unitCompleted ..
  · exact reported

theorem Follows.settlementOver (s : State) (e : QueueEntry) : Follows s (s.settlementOver e) := by
  refine .trans ((Follows.refl s).updJournal (fun j => { j.popHead with flash := .idle }) fun k => k.popHead.idle) ?_
  refine iteInduction (fun _ => .refl _) fun _ => ?_
  split
  · exact iteInduction (fun _ => (Follows.settlementTold _ _).serveWaiters) fun _ => Follows.settlementTold _ _
  · exact (Follows.refl _).serveWaiters

/-! ## What most commands leave of the Link Controller -/

/-- From `s` to `t` the mode and the restart stand, and a flag pending stays pending. -/
structure Upholds (s t : State) : Prop where
  mode : t.link.mode = s.link.mode
  restart : t.link.restart = s.link.restart
  flags : ∀ f, s.flagPending f = true → t.flagPending f = true

namespace Upholds

variable {s t u : State}

theorem same (s : State) : Upholds s s := ⟨rfl, rfl, fun _ => id⟩

theorem trans (h : Upholds s t) (k : Upholds t u) : Upholds s u :=
  ⟨k.mode.trans h.mode, k.restart.trans h.restart, fun f => k.flags f ∘ h.flags f⟩

theorem of_follows (h : Follows s t) : Upholds s t :=
  ⟨by rw [h.link], by rw [h.link], fun f => h.grows f.bit⟩

theorem of_link (mode : t.link.mode = s.link.mode := by rfl) (restart : t.link.restart = s.link.restart := by rfl)
    (pending : t.link.pending = s.link.pending := by rfl) : Upholds s t :=
  ⟨mode, restart, fun f => by simp only [State.flagPending, pending, imp_self]⟩

theorem raise (h : Upholds s t) (f : EventFlag) : Upholds s (t.raise f) := h.trans (of_follows ((Follows.refl t).raise f))

theorem settle (h : Upholds s t) : Upholds s t.settle := h.trans (of_follows (Follows.refl t).settle)

theorem answer (h : Upholds s t) (st : Status) (result : List Byte) : Upholds s (t.answer st result) :=
  h.trans (of_follows ((Follows.refl t).answer st result))

theorem owedNak (h : Upholds s t) (st : Status) : Upholds s (t.owedNak st) := (h.trans of_link).answer st []

theorem activity (s : State) (p : PortNo) : Upholds s (s.activity p) :=
  of_link (by rw [s.activity_link]) (by rw [s.activity_link]) (by rw [s.activity_link])

/-! ### The workstation link (R185 to R188) -/

theorem countOverrun (s : State) : Upholds s s.countOverrun := raise of_link _
theorem countForm (s : State) : Upholds s s.countForm := raise of_link _
theorem countCrc (s : State) : Upholds s s.countCrc := raise of_link _

theorem taken (s : State) (g v tag : Byte) (params : List Byte) : Upholds s (s.taken g v tag params) := of_link

theorem frameBegun {k : State → State} (h : Upholds s (k s)) : Upholds s (s.frameBegun k) :=
  State.frameBegun_rule (same s) (countOverrun s) h

/-- A request does what its owner does of the state with the request taken, if it comes to that. -/
theorem request {g v tag : Byte} {params : List Byte} {shape : Shape} {e : Bool} {owner : State → State}
    (h : (e = false → s.link.mode = .ready) → Upholds (s.taken g v tag params) (owner (s.taken g v tag params))) :
    Upholds s (s.request g v shape e tag params owner) := by
  rcases s.request_cases shape e owner with passed | overrun | ⟨st, refused⟩ | ⟨ready, served⟩
  · rw [passed]; exact same s
  · rw [overrun]; exact countOverrun s
  · rw [refused]; exact of_link
  · rw [served]; exact (taken ..).trans (h ready)

theorem portSet (s : State) (params : List Byte) : Upholds s (s.withPort params (State.portSet params)) := by
  unfold State.withPort
  split
  · exact (same s).answer _ _
  · exact iteInduction (fun _ => (same s).answer _ _) fun _ => iteInduction (fun _ => (same s).answer _ _)
      fun _ => answer of_link _ _

theorem padLengthBad (s : State) (l : Line) : Upholds s (s.padLengthBad l) := by
  refine iteInduction (fun _ => same s) fun _ => ?_
  split
  · exact of_link
  · exact same s
  · exact raise of_link _

end Upholds

/-- The outcome of a command from `s` is a next state that upholds `s`. -/
def AnswersUpholding (s : State) (o : Host.Outcome State Fault Refusal) : Prop := ∃ t, o = .next t ∧ Upholds s t

/-- The command can change the mode or a restart asked for, or take a flag from those pending: a reset, STARTING_ENDS,
PFW_TAKEN, DEV.RESTART, LINK_REPLY_SENT and EVT.READ (R190, R194, R196). -/
def movesMode : Instr → Bool
  | .startingEnds | .pfwTaken | .devRestart _ _ | .linkReplySent | .evtRead _ _ => true
  | c => isReset c

section Commands

variable {s : State} {c : Instr}

open Upholds

theorem zeroizationBegins_upholds (s : State) : AnswersUpholding s (execZeroizationBegins s) := by
  have pinned : Upholds s { s with pins := { s.pins with tamper := true } } := of_link
  unfold execZeroizationBegins
  split
  · exact ⟨_, rfl, same s⟩
  · dsimp only
    split
    · exact ⟨_, rfl, pinned⟩
    · exact ⟨_, rfl, settle (pinned.trans (of_follows (Follows.refl _).zeroize))⟩

theorem zeroizationEnd_upholds (s : State) : AnswersUpholding s (execZeroizationEnd s) := by
  unfold execZeroizationEnd
  split
  · exact ⟨_, rfl, settle (of_follows (Follows.refl s).zeroizeEnds)⟩
  · exact ⟨_, rfl, same s⟩

theorem assemblyLimitEnd_upholds (s : State) : AnswersUpholding s (execAssemblyLimitEnd s) := by
  unfold execAssemblyLimitEnd
  split
  · exact ⟨_, rfl, same s⟩
  · split
    · exact ⟨_, rfl, same s⟩
    · split
      · exact ⟨_, rfl, same s⟩
      · split
        · exact ⟨_, rfl, of_link⟩
        · exact ⟨_, rfl, settle (of_follows ((Follows.refl s).failAssembly _))⟩

theorem flashProgramEnd_upholds (s : State) (result : AppendResult) :
    AnswersUpholding s (execFlashProgramEnd result s) := by
  unfold execFlashProgramEnd
  split
  · rename_i seq bytes e flash head
    exact ⟨_, rfl, settle (of_follows ((Follows.refl s).appendEnd e seq bytes result
      fun lawful => lawful.journal.program seq bytes flash))⟩
  · exact ⟨_, rfl, same s⟩

theorem settlementProgramEnd_upholds (s : State) (result : ReadBack) :
    AnswersUpholding s (execSettlementProgramEnd result s) := by
  have told (ref : RecordRef) (bytes : List Byte) (e : QueueEntry) :
      Upholds s ((s.partProgrammed ref bytes result).settlementOver e).settle :=
    settle (of_follows (((Follows.refl s).partProgrammed ref bytes result).trans (Follows.settlementOver _ e)))
  unfold execSettlementProgramEnd
  split
  · exact ⟨_, rfl, told ..⟩
  · exact ⟨_, rfl, told ..⟩
  · exact ⟨_, rfl, same s⟩

theorem eraseEnd_upholds (s : State) (result : EraseResult) : AnswersUpholding s (execEraseEnd result s) := by
  unfold execEraseEnd
  split
  · exact ⟨_, rfl, settle (of_follows ((Follows.refl s).eraseDone ..))⟩
  · exact ⟨_, rfl, same s⟩

theorem counterRebuildEnd_upholds (s : State) : AnswersUpholding s (execCounterRebuildEnd s) := by
  unfold execCounterRebuildEnd
  split
  · exact ⟨_, rfl, settle of_link⟩
  · exact ⟨_, rfl, same s⟩

theorem request_upholds {row : RequestRow} (requested : requestOf c = some row) (keeps : movesMode c = false) :
    AnswersUpholding s (exec c s) := by
  cases writes : writesRegister c with
  | false =>
    obtain ⟨owner, outcome, follows⟩ := ownedBy_of_requestOf requested writes
    have served := request (s := s) (shape := row.shape) (e := row.everyMode) fun _ =>
      of_follows (follows (s.taken row.group row.verb row.tag row.params))
    exact (outcome s).elim (fun next => ⟨_, next, served⟩) fun next => ⟨_, next, served.settle⟩
  | true =>
    cases c with
    | devTime tag params => exact ⟨_, rfl, request fun _ => answer of_link _ _⟩
    | evtMask tag params =>
      exact ⟨_, rfl, request fun _ => iteInduction (fun _ => (same _).answer _ _) fun _ => answer of_link _ _⟩
    | portSet tag params => exact ⟨_, rfl, request fun _ => portSet _ _⟩
    | devRestart | evtRead => cases keeps
    | _ => cases writes

theorem event_upholds (event : requestOf c = none) (keeps : movesMode c = false) : AnswersUpholding s (exec c s) := by
  cases c with
  | startingEnds | pfwTaken | linkReplySent | powerOnReset | partRestart => cases keeps
  | zeroizationBegins => exact zeroizationBegins_upholds s
  | zeroizationEnd => exact zeroizationEnd_upholds s
  | tamperDeasserted => exact ⟨_, rfl, of_link⟩
  | secondsTick => exact ⟨_, rfl, of_link⟩
  | linkBadLength length =>
    exact ⟨_, rfl, iteInduction (fun _ => same s) fun _ => frameBegun ((countForm s).trans of_link)⟩
  | linkByteGap received => exact ⟨_, rfl, frameBegun (owedNak ((countForm s).trans of_link) _)⟩
  | linkCrcError body crc =>
    exact ⟨_, rfl, iteInduction (fun _ => same s) fun _ => frameBegun (owedNak ((countCrc s).trans of_link) _)⟩
  | linkResyncQuiet => exact ⟨_, rfl, iteInduction (fun _ => owedNak of_link _) fun _ => same s⟩
  | linkOverrunFrame received => exact ⟨_, rfl, iteInduction (fun _ => (countOverrun s).trans of_link) fun _ => same s⟩
  | linkSkipGap => exact ⟨_, rfl, iteInduction (fun _ => of_link) fun _ => same s⟩
  | unknownRequest group verb tag params =>
    refine ⟨_, rfl, iteInduction (fun _ => same s) fun _ => ?_⟩
    rcases s.takeFrame_cases (g := group) (v := verb) (tag := tag) (params := params) _ with passed | overrun | heard
    · rw [passed]; exact same s
    · rw [overrun]; exact countOverrun s
    · rw [heard]
      split <;> exact (taken ..).answer _ _
  | padPresence line custodian =>
    exact ⟨_, rfl, settle (State.padHeard_rule (same s) ((same s).raise _) (iteInduction
      (fun numbered => of_follows ((Follows.refl s).takePresence _ _ (by simpa [custodianOk] using numbered)))
      fun _ => of_follows (.badPadFrame s line)))⟩
  | padWithdraw line =>
    refine ⟨_, rfl, State.padHeard_rule (same s) ((same s).raise _) ?_⟩
    split
    · exact of_follows (((Follows.refl s).endPresence line).sendResult ..)
    · exact of_follows ((Follows.refl s).sendResult ..)
  | padComponent line custodian component stated =>
    exact ⟨_, rfl, settle (State.padHeard_rule (same s) ((same s).raise _)
      (iteInduction (fun _ => of_link) fun _ => of_follows (.badPadFrame s line)))⟩
  | padBadFrame line body crc =>
    exact ⟨_, rfl, iteInduction
      (fun _ => State.padHeard_rule (same s) ((same s).raise _) (of_follows (.badPadFrame s line))) fun _ => same s⟩
  | padBadLength line length => exact ⟨_, rfl, iteInduction (fun _ => same s) fun _ => padLengthBad s line⟩
  | padFrameGap line =>
    exact ⟨_, rfl, State.padHeard_rule (same s) ((same s).raise _) (of_follows (.badPadFrame s line))⟩
  | padQuiet line =>
    refine ⟨_, rfl, iteInduction (fun _ => same s) fun _ => ?_⟩
    split <;> exact of_link
  | padFrameUnanswered line => exact ⟨_, rfl, iteInduction (fun _ => (same s).raise _) fun _ => same s⟩
  | presenceLifetimeEnd line =>
    exact ⟨_, rfl, iteInduction (fun _ => same s) fun _ => of_follows ((Follows.refl s).endPresence line)⟩
  | windowExpiry =>
    exact ⟨_, rfl, iteInduction (fun _ => same s) fun _ => of_follows ((Follows.refl s).closeWindow true)⟩
  | assemblyLimitEnd => exact assemblyLimitEnd_upholds s
  | jobEnd => exact ⟨_, rfl, settle (of_follows (Follows.refl s).endJob)⟩
  | lineActivity port => exact ⟨_, rfl, State.onLine_rule (same s) (activity s port)⟩
  | benchInStep port =>
    exact ⟨_, rfl, State.onLine_rule (same s) (iteInduction (fun _ => of_link) fun _ => same s)⟩
  | benchCheckError port chars =>
    refine ⟨_, rfl, settle (State.received_rule (same s) (activity s port) fun j => ?_)⟩
    split
    · exact of_follows ((Follows.refl s).lineError port _)
    · exact same s
  | benchLengthError port chars =>
    refine ⟨_, rfl, settle (State.received_rule (same s) (activity s port) fun j => ?_)⟩
    split
    · exact of_follows (((Follows.refl s).portFrame port _).lineError port _)
    · exact same s
  | benchCut port chars =>
    refine ⟨_, rfl, settle (State.received_rule (same s) (activity s port) fun j => ?_)⟩
    split
    · exact of_follows ((Follows.refl s).lineError port _)
    · exact same s
  | responseTimeout port =>
    exact ⟨_, rfl, settle (State.onLine_rule (same s)
      (iteInduction (fun _ => of_follows ((Follows.refl s).lineError port _)) fun _ => same s))⟩
  | listeningPeriodEnd port =>
    exact ⟨_, rfl, State.onLine_rule (same s) (iteInduction (fun _ => of_link) fun _ => same s)⟩
  | cooldownEnd port => exact ⟨_, rfl, State.onLine_rule (same s) (iteInduction (fun _ => of_link) fun _ => same s)⟩
  | readmissionEnd port =>
    exact ⟨_, rfl, State.onLine_rule (same s) (iteInduction (fun _ => raise of_link _) fun _ => same s)⟩
  | hello port chars =>
    refine ⟨_, rfl, settle (State.received_rule (same s) (activity s port) fun j => ?_)⟩
    split
    · exact iteInduction (fun _ => trans of_link (of_follows ((Follows.refl (s.updPort port _)).greet port _)))
        fun _ => same s
    · exact same s
  | ready port chars =>
    refine ⟨_, rfl, settle (State.takeAnswer_rule (same s) (activity s port) fun x a f => ?_)⟩
    have scored := ((Follows.refl s).scoreGood port).answerTaken port
    split
    · exact of_follows (scored.askUnit port)
    · exact iteInduction (fun _ => of_follows (scored.enterLoading port)) fun _ => of_follows scored
    · exact of_follows (scored.endComplete port _)
    · exact of_follows scored
  | ack port chars =>
    refine ⟨_, rfl, settle (State.takeAnswer_rule (same s) (activity s port) fun x a f => ?_)⟩
    have scored := ((Follows.refl s).scoreGood port).answerTaken port
    exact iteInduction (fun _ => of_follows ((scored.updSession port _).sendLoad port))
      fun _ => of_follows (scored.endSpoiled port _)
  | nak port chars =>
    exact ⟨_, rfl, settle (State.takeAnswer_rule (same s) (activity s port) fun x a f =>
      of_follows ((((Follows.refl s).scoreGood port).answerTaken port).endSpoiled port _))⟩
  | done port chars =>
    exact ⟨_, rfl, settle (State.takeAnswer_rule (same s) (activity s port) fun x a f =>
      of_follows ((((Follows.refl s).scoreGood port).answerTaken port).enterSettling port))⟩
  | idleTimeExpiry port =>
    refine ⟨_, rfl, State.onLine_rule (same s) ?_⟩
    split
    · exact iteInduction (fun _ => of_follows ((Follows.refl s).sendAwaiting port _ _)) fun _ => same s
    · exact same s
  | waitLimitExpiry port =>
    refine ⟨_, rfl, settle (State.onLine_rule (same s) ?_)⟩
    split
    · exact iteInduction (fun _ => of_follows ((Follows.refl s).endUnnumbered port _ _ _)) fun _ => same s
    · exact same s
  | journalWaitExpiry port =>
    exact ⟨_, rfl, settle (State.onLine_rule (same s)
      (iteInduction (fun _ => of_follows ((Follows.refl s).endUnnumbered port _ _ _)) fun _ => same s))⟩
  | flashProgramEnd result => exact flashProgramEnd_upholds s result
  | settlementProgramEnd result => exact settlementProgramEnd_upholds s result
  | eraseEnd result => exact eraseEnd_upholds s result
  | counterRebuildEnd => exact counterRebuildEnd_upholds s
  | _ => cases event

end Commands

theorem exec_upholds {c : Instr} {s t : State} (keeps : movesMode c = false) (next : exec c s = .next t) :
    Upholds s t := by
  have answers : AnswersUpholding s (exec c s) := by
    cases row : requestOf c with
    | some r => exact request_upholds row keeps
    | none => exact event_upholds row keeps
  obtain ⟨u, outcome, upheld⟩ := answers
  cases next.symm.trans outcome
  exact upheld

/-! ## The commands that can move the mode -/

/-- A power-fail warning takes no flag from those pending. -/
theorem State.shutDown_flags {s : State} {f : EventFlag} (pending : s.flagPending f = true) :
    s.shutDown.flagPending f = true :=
  (Follows.refl _).stopVerify.stopRequest.grows f.bit pending

theorem flagPending_of_movesMode {c : Instr} {s t : State} {f : EventFlag} (moves : movesMode c = true)
    (reset : isReset c = false) (read : ∀ tag params, c ≠ .evtRead tag params) (next : exec c s = .next t)
    (pending : s.flagPending f = true) : t.flagPending f = true := by
  cases c with
  | powerOnReset | partRestart => cases reset
  | evtRead tag params => exact absurd rfl (read tag params)
  | startingEnds =>
    obtain rfl := Host.Outcome.next.inj next
    exact iteInduction (motive := fun t : State => t.flagPending f = true) (fun _ => pending) fun _ => pending
  | pfwTaken =>
    obtain rfl := Host.Outcome.next.inj next
    exact iteInduction (motive := fun t : State => t.flagPending f = true) (fun _ => pending) fun _ => State.shutDown_flags pending
  | devRestart tag params =>
    obtain rfl := Host.Outcome.next.inj next
    rcases s.request_cases (g := 1) (v := 4) (tag := tag) (params := params) .bare false _ with
      passed | overrun | ⟨st, refused⟩ | ⟨_, served⟩
    · rw [passed]; exact pending
    · rw [overrun]; exact (Upholds.countOverrun s).flags f pending
    · rw [refused]; exact pending
    · rw [served]; exact ((Follows.refl _).answer _ _).grows f.bit pending
  | linkReplySent =>
    obtain rfl := Host.Outcome.next.inj next
    split <;> exact pending
  | _ => cases moves

/-- In SHUTDOWN with no restart asked for, these commands find nothing to move: a request is refused, and a power-fail
warning is taken no second time. -/
theorem upholds_of_shutdown {c : Instr} {s t : State} (moves : movesMode c = true)
    (power : ∀ found, c ≠ .powerOnReset found) (down : s.link.mode = .shutdown) (none : s.link.restart = .none)
    (next : exec c s = .next t) : Upholds s t := by
  have unready : s.link.mode ≠ .ready := by rw [down]; exact nofun
  cases c with
  | powerOnReset found => exact absurd rfl (power found)
  | partRestart strapHigh pfw =>
    have undue : ¬ (decide (s.link.restart = .due) && decide (s.journal.flash = .idle)) = true := by simp [none]
    cases next.symm.trans (if_neg undue)
    exact .same s
  | startingEnds =>
    obtain rfl := Host.Outcome.next.inj next
    rw [if_neg (by simp [down])]
    exact .same s
  | pfwTaken =>
    obtain rfl := Host.Outcome.next.inj next
    rw [if_pos (by simp [State.isShutdown, down])]
    exact .of_link
  | devRestart | evtRead =>
    obtain rfl := Host.Outcome.next.inj next
    exact .request fun ready => absurd (ready rfl) unready
  | linkReplySent =>
    obtain rfl := Host.Outcome.next.inj next
    split
    · exact .of_link rfl (by simp [none]) rfl
    · exact .same s
  | _ => cases moves

/-- Settles O6: in SHUTDOWN even the commands that can move the mode leave it. -/
theorem shutdownLasts : Obligations.ShutdownLasts := by
  intro c s t power down none next
  have upheld : Upholds s t := by
    cases moves : movesMode c with
    | true => exact upholds_of_shutdown moves power down none next
    | false => exact exec_upholds moves next
  exact ⟨upheld.mode.trans down, upheld.restart.trans none⟩

/-- Settles O5: flags only become pending, and only EVT.READ writes them otherwise. -/
theorem flagsStayPending : Obligations.FlagsStayPending := by
  intro c s t f reset read next pending
  cases moves : movesMode c with
  | true => exact flagPending_of_movesMode moves reset read next pending
  | false => exact (exec_upholds moves next).flags f pending

end Sys2Proof.Machine

/-! PROOFS. Every block's reset values are lawful (R14, R46, R63, R98, R119, R187, R190, R191, R194, R195, R197). -/

namespace Sys2Proof.Machine

theorem LinkController.atReset_ok (rateHigh : Bool) : (LinkController.atReset rateHigh).Ok where
  crc := Nat.zero_le _
  form := Nat.zero_le _
  overruns := Nat.zero_le _
  seconds := Nat.two_pow_pos 32
  pending := BitVec.zero_and
  mask := BitVec.zero_and

theorem KeyStore.atReset_ok : KeyStore.atReset.Ok where
  slots i := (Bank.look_fill Slot.blank i).symm ▸ Slot.Ok.noRange rfl
  corrected := Nat.zero_le _

theorem CustodyUnit.atReset_presentOn : ∀ l, CustodyUnit.atReset.presentOn l = none
  | .a => rfl
  | .b => rfl

theorem CustodyUnit.atReset_ok : CustodyUnit.atReset.Ok where
  number l n present := by simp [CustodyUnit.atReset_presentOn] at present
  different n present := by simp [CustodyUnit.atReset_presentOn] at present
  window := nofun
  intake := .nil

theorem Engine.atReset_ok : Engine.atReset.Ok where
  completed := Nat.zero_le _
  kept j kept := by simp [Engine.atReset] at kept

theorem Profile.blank_ok : Profile.blank.Ok := nofun

theorem Entry.blank_ok : Entry.blank.Ok := nofun

theorem OrderTable.atReset_ok : OrderTable.atReset.Ok where
  size := Nat.zero_le _
  numbers := .nil
  placements := Nat.zero_le _
  orders := nofun

theorem Settings.default_ok : Settings.default.Ok where
  rate := by decide
  timeout := by decide
  retry := by decide
  wait := by decide

theorem Port.blank_ok : Port.blank.Ok where
  settings := Settings.default_ok
  score := Nat.zero_le _
  checkErrors := Nat.zero_le _
  cutErrors := Nat.zero_le _
  lengthErrors := Nat.zero_le _
  timeoutErrors := Nat.zero_le _

theorem Journal.atReset_ok : Journal.atReset.Ok where
  next := Nat.le_refl _
  released := Nat.le_refl _
  program := nofun
  custodyOut := Nat.zero_le _
  warnLevel := by decide
  programFailures := Nat.zero_le _
  eraseFailures := Nat.zero_le _

theorem State.reset_lawful : State.reset.Ok where
  link := LinkController.atReset_ok false
  keys := KeyStore.atReset_ok
  custody := CustodyUnit.atReset_ok
  engine := Engine.atReset_ok
  profiles i := (Bank.look_fill Profile.blank i).symm ▸ Profile.blank_ok
  entries i := (Bank.look_fill Entry.blank i).symm ▸ Entry.blank_ok
  orders := OrderTable.atReset_ok
  ports p := (Bank.look_fill Port.blank p).symm ▸ Port.blank_ok
  journal := Journal.atReset_ok

/-- Settles O2: lawful block by block; the Link Controller's registers are read off `LinkController.atReset`. -/
theorem resetLawful : Obligations.ResetLawful :=
  ⟨State.reset_lawful, rfl, rfl, rfl, rfl, fun _ => BitVec.getLsbD_zero, rfl, rfl, rfl, rfl, rfl⟩

end Sys2Proof.Machine

/-! PROOFS. The link receiver, the seconds count, the event flags with ATTN, and the changes of the mode (R185 to R187, R189
to R191, R194 to R197). -/

namespace Sys2Proof.Machine

/-! ## Errors counted and NAKs owed (R185 to R187) -/

/-- A NAK owed has the attention fields as they are now and an empty result. -/
theorem State.owedNak_eq (s : State) (st : Status) : s.owedNak st = s.nakOwed st := by
  unfold State.owedNak State.answer State.nakOwed
  simp only [replyBody, List.append_nil]
  rfl

theorem linkLengthOk_iff (n : Nat) : linkLengthOk n = true ↔ 4 ≤ n ∧ n ≤ 1024 := by
  simp [linkLengthOk]

theorem linkLengthOk_eq_false_iff (n : Nat) : linkLengthOk n = false ↔ n < 4 ∨ 1024 < n := by
  rw [← Bool.not_eq_true, linkLengthOk_iff]
  omega

/-- A frame begun while the receiver hears goes on. -/
theorem State.Hears.frameBegun {s : State} (h : s.Hears) (k : State → State) : s.frameBegun k = k s := by
  simp only [State.frameBegun, h.hunting, h.free]

theorem afterOverrun_eq (got : List Byte) : afterOverrun got = if 2 ≤ got.length ∧ (number got 0 2 < 4
    ∨ 1024 < number got 0 2 ∨ number got 0 2 + 4 ≤ got.length) then .hunting else .skipping := by
  unfold afterOverrun
  by_cases short : got.length < 2
  · rw [if_pos short, if_neg (by omega)]
  · rw [if_neg short]
    refine ite_congr (propext ?_) (fun _ => rfl) fun _ => rfl
    rw [Bool.or_eq_true, Bool.not_eq_true', linkLengthOk_eq_false_iff, decide_eq_true_iff]
    omega

section Receiver

variable {s : State}

theorem State.Hears.exec_linkBadLength (h : s.Hears) {n : BitVec 16} (bad : n.toNat < 4 ∨ 1024 < n.toNat) :
    exec (.linkBadLength n) s = .next (s.countForm.setReceiver .resync) := by
  refine next_congr ?_
  rw [(linkLengthOk_eq_false_iff _).mpr bad, if_neg Bool.false_ne_true, h.frameBegun]

theorem State.Hears.exec_linkByteGap (h : s.Hears) (got : List Byte) : exec (.linkByteGap got) s
    = .next (State.nakOwed { s.countForm with link := { s.countForm.link with buffer := got.drop 2 } } .nakForm) := by
  refine next_congr ?_
  rw [h.frameBegun, State.owedNak_eq]

theorem State.Hears.exec_linkCrcError (h : s.Hears) {body : List Byte} {crc : BitVec 16} (least : 4 ≤ body.length)
    (most : body.length ≤ 1024) (wrong : crc ≠ framedCrc body) : exec (.linkCrcError body crc) s
    = .next (State.nakOwed { s.countCrc with link := { s.countCrc.link with buffer := body } } .nakCrc) := by
  refine next_congr ?_
  rw [(linkLengthOk_iff _).mpr ⟨least, most⟩, if_neg (by simp [wrong]), h.frameBegun, State.owedNak_eq]

theorem State.exec_linkResyncQuiet (resync : s.link.receiver = .resync) (free : s.link.owed = none) :
    exec .linkResyncQuiet s = .next (State.nakOwed (s.setReceiver .hunting) .nakForm) := by
  refine next_congr ?_
  rw [if_pos (by simp [resync, free]), State.owedNak_eq]

theorem State.exec_linkOverrunFrame (hunting : s.link.receiver = .hunting) (owed : s.link.owed.isSome = true)
    (got : List Byte) : exec (.linkOverrunFrame got) s = .next (s.countOverrun.setReceiver (afterOverrun got)) :=
  next_congr (if_pos (by simp [hunting, owed]))

theorem State.exec_linkReplySent {o : Owed} {body : List Byte} (owed : s.link.owed = some o) (formed : o.body = some body) :
    exec .linkReplySent s = .next { s with link := { s.link with
      owed := none, restart := if s.link.restart = .replyOwed then .due else s.link.restart } } := by
  have sent : s.link.owed.bind (·.body) = some body := by rw [owed]; exact formed
  refine next_congr ?_
  rw [sent]

end Receiver

/-- Settles O8: each event in the receiver's state in which it counts; that an error counted raises LINK-ERROR is the
definition of `State.countForm`, `State.countCrc` and `State.countOverrun`. -/
theorem linkReceiver : Obligations.LinkReceiver := by
  refine fun s => ⟨fun hears => ⟨?_, ?_, ?_⟩, ?_, ?_, ?_, ?_⟩
  · exact fun n bad => hears.exec_linkBadLength bad
  · exact hears.exec_linkByteGap
  · exact fun body crc least most wrong => hears.exec_linkCrcError least most wrong
  · exact State.exec_linkResyncQuiet
  · intro hunting owed got
    rw [← afterOverrun_eq]
    exact State.exec_linkOverrunFrame hunting owed got
  · exact fun skipping => next_congr (if_pos skipping)
  · exact fun o body => State.exec_linkReplySent

/-! ## Time (R191) -/

theorem number_whole (params : List Byte) : number params 0 params.length = ofBE params := by
  simp [number, field]

theorem second_wraps {n : Nat} (range : n < 2 ^ 32) : (n + 1) % 2 ^ 32 = if n = 0xFFFFFFFF then 0 else n + 1 := by
  split <;> omega

/-- Settles O13: a tick counts modulo 2^32; DEV.TIME reads the stamp before it writes it. -/
theorem secondsCounted : Obligations.SecondsCounted := by
  refine ⟨fun s range => next_congr ?_, fun s tag params takes length => next_congr ?_⟩
  · rw [second_wraps range]
  · have whole : number params 0 4 = ofBE params := by rw [← length, number_whole]
    rw [takes.request 1 3 (.bytes 4) false tag params _ length nofun, whole]
    exact State.taken_answer { s with link := { s.link with seconds := ofBE params, timeSet := true } } ..

/-! ## The flags and ATTN (R195 to R197, R200) -/

theorem GlobalFlag.exists_place : ∀ n : Fin 19, ∃ g : GlobalFlag, g.place = n := fun n =>
  ⟨GlobalFlag.ofNat n, by revert n; decide⟩

theorem PortFlag.exists_place : ∀ n : Fin 4, ∃ k : PortFlag, k.place = n := fun n =>
  ⟨PortFlag.ofNat n, by revert n; decide⟩

/-- The bits of a flag set that name no flag lie between those of the global flags and those of the ports. -/
theorem unusedFlagBits_clear : ∀ i : Fin 88, unusedFlagBits.getLsbD i = false → i.val < 64 ∨ 69 ≤ i.val := by decide

/-- Every other bit is that of a flag. -/
theorem EventFlag.exists_bit {i : Nat} (range : i < 88) (used : unusedFlagBits.getLsbD i = false) :
    ∃ f : EventFlag, f.bit = i := by
  rcases unusedFlagBits_clear ⟨i, range⟩ used with (ports : i < 64) | (globals : 69 ≤ i)
  · obtain ⟨k, (place : k.place = (63 - i) % 4)⟩ := PortFlag.exists_place ⟨(63 - i) % 4, by omega⟩
    refine ⟨.port k ⟨(63 - i) / 4, by omega⟩, ?_⟩
    simp only [EventFlag.bit, place]
    omega
  · obtain ⟨g, (place : g.place = 87 - i)⟩ := GlobalFlag.exists_place ⟨87 - i, by omega⟩
    refine ⟨.global g, ?_⟩
    simp only [EventFlag.bit, place]
    omega

/-- A flag pending of a lawful Link Controller is at a bit that names a flag. -/
theorem LinkController.Ok.used {l : LinkController} (h : l.Ok) {i : Nat} (pending : l.pending.getLsbD i = true) :
    unusedFlagBits.getLsbD i = false := by
  have none : (l.pending &&& unusedFlagBits).getLsbD i = false := by rw [h.pending]; exact BitVec.getLsbD_zero
  rwa [BitVec.getLsbD_and, pending, Bool.true_and] at none

theorem flagSet_ne_zero_iff (v : BitVec 88) : v ≠ 0 ↔ ∃ i, i < 88 ∧ v.getLsbD i = true := by
  have bitwise : v = 0 ↔ ∀ i, i < 88 → v.getLsbD i = (0#88).getLsbD i :=
    ⟨fun h _ _ => h ▸ rfl, BitVec.eq_of_getLsbD_eq⟩
  simp only [Ne, bitwise, BitVec.getLsbD_zero, Bool.not_eq_false, Classical.not_forall, exists_prop]

theorem LinkController.attention_getLsbD (l : LinkController) {i : Nat} (range : i < 88) :
    l.attention.getLsbD i = (l.pending.getLsbD i && !l.mask.getLsbD i) := by
  simp [LinkController.attention, range]

/-- ATTN is asserted while a flag is pending and unmasked (R195). -/
theorem State.attn_iff {s : State} (h : s.link.Ok) :
    s.attn = true ↔ ∃ f : EventFlag, s.flagPending f = true ∧ s.link.mask.getLsbD f.bit = false := by
  rw [State.attn, bne_iff_ne, flagSet_ne_zero_iff]
  constructor
  · rintro ⟨i, range, set⟩
    rw [s.link.attention_getLsbD range, Bool.and_eq_true, Bool.not_eq_true'] at set
    obtain ⟨pending, unmasked⟩ := set
    obtain ⟨f, rfl⟩ := EventFlag.exists_bit range (h.used pending)
    exact ⟨f, pending, unmasked⟩
  · rintro ⟨f, pending, unmasked⟩
    refine ⟨f.bit, f.bit_lt, ?_⟩
    rw [s.link.attention_getLsbD f.bit_lt, Bool.and_eq_true, Bool.not_eq_true']
    exact ⟨pending, unmasked⟩

theorem State.Takes.exec_evtRead {s : State} (h : s.Takes) (tag : Byte) : exec (.evtRead tag [0]) s
    = .next (State.replied { s with link := { s.link with pending := 0 } } 2 1 tag [0] .ok
      (be 11 s.link.pending.toNat)) := by
  refine next_congr ?_
  rw [h.request 2 1 .bare false tag [0] _ rfl fun _ => rfl]
  exact State.taken_answer { s with link := { s.link with pending := 0 } } ..

theorem State.Takes.exec_evtMask {s : State} (h : s.Takes) (tag : Byte) {params : List Byte}
    (length : params.length = 11) : exec (.evtMask tag params) s
    = .next (if BitVec.ofNat 88 (ofBE params) &&& unusedFlagBits = 0 then
        State.replied { s with link := { s.link with mask := BitVec.ofNat 88 (ofBE params) } } 2 2 tag params .ok
          (be 11 s.link.mask.toNat)
      else s.replied 2 2 tag params .badValue []) := by
  refine next_congr ?_
  rw [h.request 2 2 (.bytes 11) false tag params _ length nofun]
  refine (ite_not ..).trans (ite_congr rfl (fun _ => ?_) fun _ => s.taken_refuse ..)
  exact State.taken_answer { s with link := { s.link with mask := BitVec.ofNat 88 (ofBE params) } } ..

/-- Settles O14: ATTN by the bits of the two flag sets, and the two requests by their owners' one write. -/
theorem flagsReadAndMasked : Obligations.FlagsReadAndMasked :=
  ⟨fun _ lawful => State.attn_iff lawful,
    fun _ tag takes => ⟨takes.exec_evtRead tag, fun _ length => takes.exec_evtMask tag length⟩⟩

/-! ## Modes (R190, R194) -/

/-- Settles O17: STARTING_ENDS in STARTING, and DEV.RESTART taken. -/
theorem modeChanges : Obligations.ModeChanges := by
  refine ⟨fun s starting => next_congr ?_, fun s tag takes => next_congr ?_⟩
  · cases zeroizing : s.keys.zeroizing
    · exact if_pos (by simp [starting])
    · exact if_neg (by simp)
  · rw [takes.request 1 4 .bare false tag [0] _ rfl fun _ => rfl]
    exact State.taken_answer
      { s with link := { s.link with restart := if s.link.restart = .due then .due else .replyOwed } } ..

end Sys2Proof.Machine

/-! PROOFS. A step is the command at the front of the queue, and every command answers a next state (log entries 1
and 3). -/

namespace Sys2Proof.Machine

theorem step_of_front {s : State} {c : Instr} {rest : List Instr} (front : s.pending = c :: rest) :
    step s = exec c { s with pending := rest } := by
  rw [step, front]

theorem step_of_no_command {s : State} (idle : s.pending = []) : step s = .next s := by
  rw [step, idle]

/-- Settles O1: the queue's two shapes. -/
theorem stepRunsFront : Obligations.StepRunsFront :=
  ⟨fun _ _ _ front => step_of_front front, fun _ idle => step_of_no_command idle⟩

section Answered

variable {c : Instr} {s : State}

/-- A command that keeps settings and time answers the state that keeps them. -/
theorem AnswersSteady.answers {P : PortNo → Prop} {T : Prop} {o : Host.Outcome State Fault Refusal}
    (steady : AnswersSteady P T s o) : Answers o := by
  obtain ⟨t, outcome, _⟩ := steady
  exact ⟨t, outcome⟩

/-- A power-on reset has no condition; PART_RESTART answers when it is due and when it is not. -/
theorem reset_answers (reset : isReset c = true) : Answers (exec c s) := by
  cases c with
  | powerOnReset found => exact ⟨s.powerOn found, rfl⟩
  | partRestart strapHigh pfw =>
    exact iteInduction (motive := Answers) (fun _ => ⟨(s.resetBlocks strapHigh s.pins.tamper pfw).startUp, rfl⟩)
      fun _ => ⟨s, rfl⟩
  | _ => cases reset

end Answered

/-- Settles O4: the requests of the catalogue, the resets, and the other events. -/
theorem everyCommandAnswers : Obligations.EveryCommandAnswers := by
  intro c s
  cases row : requestOf c with
  | some r => exact (request_steady row).answers
  | none =>
    cases reset : isReset c with
    | true => exact reset_answers reset
    | false => exact (event_steady row reset).answers

end Sys2Proof.Machine
